-- ==== Sys2Proof/Word.lean ====
section
/-! DEFINITION. The words of the FHC block: bytes, command words and 32-bit port words (spec 00_scope R9, R10). -/

namespace Sys2Proof

/-- A byte of a buffer or of a byte field (R11). -/
abbrev Byte := BitVec 8

/-- A command word, and the width of STATUS (R24, R27). -/
abbrev Word16 := BitVec 16

/-- The width of OPND, RDATA and FAULT (R25, R26, R28). -/
abbrev Word32 := BitVec 32

end Sys2Proof
end

