-- ==== Sys2Proof/Syntax.lean ====
section
/-! DEFINITION. The commands of FHC as syntax: one constructor per row of the opcode map (spec 30_encoding R57, R58). -/

namespace Sys2Proof

/-- What the SEL field of MSG_WR and MSG_RD names, in the wire order of the header; SEL 6 and 7 are the actual lengths,
and SEL 8 to 15 name nothing (R58). -/
inductive Selector where
  | signatureLength
  | version
  | messageType
  | serviceId
  | payloadLength
  | encrypted
  | dataLen
  | sigLen
  deriving DecidableEq, Repr

/-- The thirteen commands (R57). DECODE to MSG_RD_SIG in the table's order. -/
inductive Instr where
  | decode
  | encode
  | inPush
  | inLen
  | outPop
  | outLen
  | msgNew
  | msgWr (field : Selector)
  | msgRd (field : Selector)
  | msgPushData
  | msgPushSig
  | msgRdData
  | msgRdSig
  deriving DecidableEq, Repr

end Sys2Proof
end

