-- ==== Sys2Proof/WellFormed.lean ====
section
/-! DEFINITION. Which commands have a legal word: MSG_WR selects a header field, never a read-only length
(spec 30_encoding R58, R59). -/

namespace Sys2Proof

/-- The MSG_WR column of R58: the six header fields may be written, the two lengths may not. -/
def Selector.writable : Selector → Bool
  | .signatureLength => true
  | .version => true
  | .messageType => true
  | .serviceId => true
  | .payloadLength => true
  | .encrypted => true
  | .dataLen => false
  | .sigLen => false

/-- The command has one of the 25 legal words (R59). -/
def Instr.wellFormed : Instr → Bool
  | .decode => true
  | .encode => true
  | .inPush => true
  | .inLen => true
  | .outPop => true
  | .outLen => true
  | .msgNew => true
  | .msgWr field => field.writable
  | .msgRd _ => true
  | .msgPushData => true
  | .msgPushSig => true
  | .msgRdData => true
  | .msgRdSig => true

end Sys2Proof
end

