-- ==== Sys2Proof/Decode.lean ====
section
/-! DEFINITION. The command-word decoder and encoder (spec 30_encoding R54, R56 to R59). -/

namespace Sys2Proof

/-- The opcode field OPC, bits 7 to 0 of a command word (R54). -/
def cwOpc (w : Word16) : BitVec 8 := w.extractLsb' 0 8

/-- The selector field SEL, bits 11 to 8 of a command word (R54). -/
def cwSel (w : Word16) : BitVec 4 := w.extractLsb' 8 4

/-- The reserved field RSV, bits 15 to 12 of a command word (R54). -/
def cwRsv (w : Word16) : BitVec 4 := w.extractLsb' 12 4

/-- Why a command word is illegal, in the order R56 tests it. All four raise ILLEGAL_COMMAND. -/
inductive DecodeError where
  /-- RSV is not zero. -/
  | reservedBits
  /-- OPC is not in the opcode map. -/
  | unassignedOpcode
  /-- SEL is not zero on an opcode that takes no selector. -/
  | selectorNotTaken
  /-- SEL is above 5 for MSG_WR or above 7 for MSG_RD. -/
  | selectorOutOfRange
  deriving DecidableEq, Repr

/-- The rows of R58; SEL 8 to 15 are reserved. -/
def selectorOf (s : BitVec 4) : Option Selector :=
  match s.toNat with
  | 0 => some .signatureLength
  | 1 => some .version
  | 2 => some .messageType
  | 3 => some .serviceId
  | 4 => some .payloadLength
  | 5 => some .encrypted
  | 6 => some .dataLen
  | 7 => some .sigLen
  | _ => none

/-- A command that takes no selector needs SEL = 0 (R54, R59). -/
def withoutSel (w : Word16) (i : Instr) : Except DecodeError Instr :=
  if cwSel w = 0 then .ok i else .error .selectorNotTaken

/-- MSG_WR takes SEL 0 to 5 (R56). -/
def decodeMsgWr (w : Word16) : Except DecodeError Instr :=
  match selectorOf (cwSel w) with
  | some f => if f.writable then .ok (.msgWr f) else .error .selectorOutOfRange
  | none => .error .selectorOutOfRange

/-- MSG_RD takes SEL 0 to 7 (R56). -/
def decodeMsgRd (w : Word16) : Except DecodeError Instr :=
  match selectorOf (cwSel w) with
  | some f => .ok (.msgRd f)
  | none => .error .selectorOutOfRange

/-- The opcode map (R57), after the RSV test and before the SEL test of each row. -/
def decodeOpc (w : Word16) : Except DecodeError Instr :=
  match (cwOpc w).toNat with
  | 0x01 => withoutSel w .decode
  | 0x02 => withoutSel w .encode
  | 0x10 => withoutSel w .inPush
  | 0x11 => withoutSel w .inLen
  | 0x12 => withoutSel w .outPop
  | 0x13 => withoutSel w .outLen
  | 0x20 => withoutSel w .msgNew
  | 0x21 => decodeMsgWr w
  | 0x22 => decodeMsgRd w
  | 0x23 => withoutSel w .msgPushData
  | 0x24 => withoutSel w .msgPushSig
  | 0x25 => withoutSel w .msgRdData
  | 0x26 => withoutSel w .msgRdSig
  | _ => .error .unassignedOpcode

/-- The command of a word, or why it has none: the tests of R56 in their order, RSV first. -/
def decode (w : Word16) : Except DecodeError Instr :=
  if cwRsv w = 0 then decodeOpc w else .error .reservedBits

/-- The SEL code of a selector (R58). -/
def selCode : Selector → BitVec 4
  | .signatureLength => 0
  | .version => 1
  | .messageType => 2
  | .serviceId => 3
  | .payloadLength => 4
  | .encrypted => 5
  | .dataLen => 6
  | .sigLen => 7

/-- The opcode of a command (R57). -/
def opcodeOf : Instr → BitVec 8
  | .decode => 0x01
  | .encode => 0x02
  | .inPush => 0x10
  | .inLen => 0x11
  | .outPop => 0x12
  | .outLen => 0x13
  | .msgNew => 0x20
  | .msgWr _ => 0x21
  | .msgRd _ => 0x22
  | .msgPushData => 0x23
  | .msgPushSig => 0x24
  | .msgRdData => 0x25
  | .msgRdSig => 0x26

/-- The SEL field of a command: zero but for MSG_WR and MSG_RD (R54, R57). -/
def selOf : Instr → BitVec 4
  | .decode => 0
  | .encode => 0
  | .inPush => 0
  | .inLen => 0
  | .outPop => 0
  | .outLen => 0
  | .msgNew => 0
  | .msgWr f => selCode f
  | .msgRd f => selCode f
  | .msgPushData => 0
  | .msgPushSig => 0
  | .msgRdData => 0
  | .msgRdSig => 0

/-- The command word with RSV = 0, from bit 15 down: RSV, SEL, OPC (R54). -/
def encode (i : Instr) : Word16 := (0#4 ++ selOf i) ++ opcodeOf i

/-- One row of opcode_table.json: a word belongs to the row when its bits under the mask are the match value. -/
structure OpcodeRow where
  mnemonic   : String
  matchValue : Word16
  mask       : Word16
  deriving DecidableEq, Repr

/-- The rows of opcode_table.json, in its order. MSG_WR's row covers SEL 6 to 15 too, which its constraint excludes. -/
def opcodeRows : List OpcodeRow :=
  [ ⟨"DECODE", 0x0001, 0xFFFF⟩, ⟨"ENCODE", 0x0002, 0xFFFF⟩, ⟨"IN_PUSH", 0x0010, 0xFFFF⟩,
    ⟨"IN_LEN", 0x0011, 0xFFFF⟩, ⟨"OUT_POP", 0x0012, 0xFFFF⟩, ⟨"OUT_LEN", 0x0013, 0xFFFF⟩,
    ⟨"MSG_NEW", 0x0020, 0xFFFF⟩, ⟨"MSG_WR", 0x0021, 0xF0FF⟩, ⟨"MSG_RD", 0x0022, 0xF8FF⟩,
    ⟨"MSG_PUSH_DATA", 0x0023, 0xFFFF⟩, ⟨"MSG_PUSH_SIG", 0x0024, 0xFFFF⟩,
    ⟨"MSG_RD_DATA", 0x0025, 0xFFFF⟩, ⟨"MSG_RD_SIG", 0x0026, 0xFFFF⟩ ]

/-- The word belongs to the row. -/
def OpcodeRow.covers (r : OpcodeRow) (w : Word16) : Bool := w &&& r.mask == r.matchValue

/-- The command word whose bits are the low `nbits` bits of `w`, numbered as opcode_table.json numbers them; every other
bit is 0. A command is one 16-bit word, written whole to CW, so there is no byte order to undo. -/
def tableWord (nbits w : Nat) : Word16 := BitVec.ofNat 16 (w % 2 ^ nbits)

/-- The instruction the decoder reads from a table row's word. -/
def decodeTableWord (nbits w : Nat) : Option Instr :=
  match decode (tableWord nbits w) with
  | .ok i => some i
  | .error _ => none

end Sys2Proof
end

