-- ==== Sys2Proof/Config.lean ====
section
/-! DEFINITION. The implementation parameters of FHC (spec 00_scope R6, R7; 10_state R16).
They are open: the machine carries one configuration beside its state (log entry 1) and no command changes it. -/

namespace Sys2Proof

/-- The two framing rules of DECODE (R6, R62). -/
inductive FramingMode where
  /-- The boundary is taken from the buffered length (R65). -/
  | legacy
  /-- The boundary is taken from the declared lengths (R67). -/
  | strict
  deriving DecidableEq, Repr

/-- The parameters of R6. -/
structure Config where
  framingMode : FramingMode
  ibufCap     : Nat
  obufCap     : Nat
  msgDataCap  : Nat
  msgSigCap   : Nat
  deriving DecidableEq, Repr

/-- The header size: the sum of the six field widths (R7). -/
def HDR : Nat := 4 + 1 + 2 + 2 + 4 + 2

/-- The largest capacity R6 allows. -/
def maxCap : Nat := 2 ^ 32 - 1

/-- The legal values of the parameters (R6). -/
abbrev Config.Legal (c : Config) : Prop :=
  (HDR ≤ c.ibufCap ∧ c.ibufCap ≤ maxCap) ∧ (HDR ≤ c.obufCap ∧ c.obufCap ≤ maxCap) ∧
    c.msgDataCap ≤ maxCap ∧ c.msgSigCap ≤ maxCap

/-- The configuration the spec's vectors use unless they name another (95_test_vectors, notation):
LEGACY, every capacity 2^32 - 1. DESIGN CHOICE (log entry 1): State.reset holds it; the spec leaves the parameters open. -/
def Config.vectors : Config :=
  { framingMode := .legacy, ibufCap := maxCap, obufCap := maxCap, msgDataCap := maxCap, msgSigCap := maxCap }

end Sys2Proof
end

