-- ==== Sys2Proof/Machine/State.lean ====
section
/-! DEFINITION. The state of one FHC instance and of the host that drives it (spec 10_state R15 to R32), its reset value,
and the reasons a step can stop. -/

namespace Sys2Proof.Machine

/-- The host-visible registers (R30). -/
inductive HostReg where
  | cw
  | opnd
  | rdata
  | status
  | fault
  deriving DecidableEq, Repr

/-- The registers the host may only read (R26, R27, R28). -/
inductive ReadOnlyReg where
  | rdata
  | status
  | fault
  deriving DecidableEq, Repr

/-- What the host can do to an instance, one entry per action (R30, R60, R115). Actions land between commands. -/
inductive HostAction where
  /-- Write CW: issue one command (R24, R56). -/
  | writeCw (w : Word16)
  /-- Write OPND; SETOP of R60 (R25). -/
  | writeOpnd (v : Word32)
  /-- Read RDATA and write the value read to OPND: `SETOP RDATA` of 95_test_vectors P3 (log entry 16). -/
  | copyRdata
  /-- Read a register; READ of R60 (R30). -/
  | read (r : HostReg)
  /-- Try to write a register the host may only read (R30). -/
  | writeReadOnly (r : ReadOnlyReg) (v : Word32)
  /-- Apply reset (R115). -/
  | reset
  deriving DecidableEq, Repr

/-- The message register MSG (R21). While `valid` is false its other fields hold no value: the bits kept there show in no
outcome (R23; log entries 2 and 4). -/
structure Msg where
  valid           : Bool
  signatureLength : Word32
  version         : Byte
  messageType     : Word16
  serviceId       : Word16
  payloadLength   : Word32
  encrypted       : Word16
  data            : List Byte
  signature       : List Byte
  deriving DecidableEq, Repr

/-- One instance and its host. `config` is the argument of the step relation (R16; log entry 1), carried here because
`step` takes the state alone. The last three fields are the host's: its command index (R18), its actions to come and the
value its latest register read returned (log entries 5 and 9). CW stores nothing (R24), so it has no field. -/
structure State where
  config    : Config
  /-- IBUF, oldest byte first (R19). -/
  ibuf      : List Byte
  /-- OBUF, oldest byte first (R20). -/
  obuf      : List Byte
  msg       : Msg
  /-- The operand register (R25). -/
  opnd      : Word32
  /-- The result register; it holds a value only while STATUS.RDV = 1 (R26). -/
  rdata     : Word32
  /-- CODE [7:0], RDV [8], zeros (R27). -/
  status    : Word16
  /-- F [0], zeros [7:1], CAUSE [15:8], FCW [31:16] (R28). -/
  fault     : Word32
  hostPc    : Nat
  hostQueue : List HostAction
  hostData  : Word32
  deriving DecidableEq, Repr

/-- Why the machine stops with a fault. No command stops it: a command that raises goes on to a state with FAULT.F = 1. -/
inductive Fault where
  /-- The host read RDATA while STATUS.RDV = 0, where it holds no value and the read faults (R26). Raised by the host's
  read of RDATA alone. Safe: the hardware returns some bits and goes on, the model stops. -/
  | rdataHoldsNoValue
  deriving DecidableEq, Repr

/-- Why a step is refused. -/
inductive Refusal where
  /-- An instruction without a meaning. No arm of exec raises it: every command is modelled. Safe. -/
  | notModelled (mnemonic : String)
  /-- The host read CW, which has no readable value and which a model refuses (R24). Safe: the model stops. -/
  | commandPortRead
  /-- The host wrote a register it may only read, which a model refuses and the hardware ignores (R30). Safe: the model
  stops where the hardware goes on. -/
  | readOnlyWrite (r : ReadOnlyReg)
  deriving DecidableEq, Repr

/-- MSG after reset: invalid (R32). The other fields hold no value there; the bits are DESIGN CHOICE zero and empty
(log entry 2). -/
def Msg.afterReset : Msg :=
  { valid := false, signatureLength := 0, version := 0, messageType := 0, serviceId := 0, payloadLength := 0,
    encrypted := 0, data := [], signature := [] }

/-- An instance of the given configuration right after reset, with an idle host (R32). RDATA holds no value there; its bits
are DESIGN CHOICE zero (log entry 3). -/
def State.resetWith (c : Config) : State :=
  { config := c, ibuf := [], obuf := [], msg := Msg.afterReset, opnd := 0, rdata := 0, status := 0, fault := 0,
    hostPc := 0, hostQueue := [], hostData := 0 }

/-- The machine right after reset, in the configuration of the spec's vectors (log entry 1). -/
def State.reset : State := State.resetWith Config.vectors

end Sys2Proof.Machine
end

