-- ==== Sys2Proof/Machine/Flags.lean ====
section
/-! DEFINITION. The status codes and the fields of STATUS and FAULT (spec 10_state R27, R28; 60_exceptions R98, R99).
FHC has no arithmetic flags (R29): these are its only status indications. -/

namespace Sys2Proof.Machine

/-- The outcomes after which the instance goes on (R98). -/
inductive Code where
  | ok
  | incomplete
  | validationError
  | empty
  deriving DecidableEq, Repr

/-- The fault causes (R99). -/
inductive Cause where
  | illegalCommand
  | msgInvalid
  | sigUnderflow
  | capacity
  | operandRange
  | indexRange
  deriving DecidableEq, Repr

/-- The codes of R98. -/
def Code.byte : Code → Byte
  | .ok => 0x00
  | .incomplete => 0x01
  | .validationError => 0x02
  | .empty => 0x03

/-- The codes of R99. -/
def Cause.byte : Cause → Byte
  | .illegalCommand => 0x80
  | .msgInvalid => 0x81
  | .sigUnderflow => 0x82
  | .capacity => 0x83
  | .operandRange => 0x84
  | .indexRange => 0x85

/-- STATUS from its fields, bit 15 first: zeros, RDV, CODE (R27). -/
def statusWord (code : Byte) (rdv : Bool) : Word16 := (0#7 ++ BitVec.ofBool rdv) ++ code

/-- STATUS.CODE, bits 7 to 0 (R27). -/
def statusCode (w : Word16) : Byte := w.extractLsb' 0 8

/-- STATUS.RDV, bit 8 (R27). -/
def statusRdv (w : Word16) : Bool := w.getLsbD 8

/-- STATUS[15:9], which reads as 0 (R27). -/
def statusReserved (w : Word16) : BitVec 7 := w.extractLsb' 9 7

/-- FAULT with F = 1 from its fields, bit 31 first: FCW, CAUSE, zeros, F (R28). -/
def faultWord (cause : Byte) (fcw : Word16) : Word32 := ((fcw ++ cause) ++ 0#7) ++ 1#1

/-- FAULT.F, bit 0 (R28). -/
def faultF (w : Word32) : Bool := w.getLsbD 0

/-- FAULT[7:1], which reads as 0 (R28). -/
def faultReserved (w : Word32) : BitVec 7 := w.extractLsb' 1 7

/-- FAULT.CAUSE, bits 15 to 8 (R28). -/
def faultCause (w : Word32) : Byte := w.extractLsb' 8 8

/-- FAULT.FCW, bits 31 to 16 (R28). -/
def faultFcw (w : Word32) : Word16 := w.extractLsb' 16 16

end Sys2Proof.Machine
end

