-- ==== Sys2Proof/Machine/Operands.lean ====
section
/-! DEFINITION. The operand forms of OPND (spec 30_encoding R55) and the fields SEL names (R58).
An operand is never truncated, sign-extended or scaled (R55, 92 D16). -/

namespace Sys2Proof.Machine

/-- The byte form: OPND[7:0], and none when OPND[31:8] is not zero (R55). -/
def byteOperand (opnd : Word32) : Option Byte :=
  if opnd.extractLsb' 8 24 = 0 then some (opnd.extractLsb' 0 8) else none

/-- The width w(sel) of a selected field (R58). -/
def fieldWidth : Selector → Nat
  | .signatureLength => 32
  | .version => 8
  | .messageType => 16
  | .serviceId => 16
  | .payloadLength => 32
  | .encrypted => 16
  | .dataLen => 32
  | .sigLen => 32

/-- OPND has set bits above the width of the field, which is narrower than 32 bits (R55, R91). -/
abbrev overWidth (field : Selector) (opnd : Word32) : Prop :=
  fieldWidth field < 32 ∧ opnd >>> fieldWidth field ≠ 0

/-- The index form: OPND as a natural number (R55). -/
def indexOperand (opnd : Word32) : Nat := opnd.toNat

/-- MSG with a header field replaced by the low w(sel) bits of OPND (R91). The two lengths are read-only (R58): selecting
one changes nothing, and MSG_WR raises before it gets here. -/
def Msg.writeField (m : Msg) (field : Selector) (v : Word32) : Msg :=
  match field with
  | .signatureLength => { m with signatureLength := v }
  | .version => { m with version := v.extractLsb' 0 8 }
  | .messageType => { m with messageType := v.extractLsb' 0 16 }
  | .serviceId => { m with serviceId := v.extractLsb' 0 16 }
  | .payloadLength => { m with payloadLength := v }
  | .encrypted => { m with encrypted := v.extractLsb' 0 16 }
  | .dataLen => m
  | .sigLen => m

/-- The 32-bit value MSG_RD reads: a header field with zero high bits, or an actual length (R92). -/
def Msg.readField (m : Msg) (field : Selector) : Word32 :=
  match field with
  | .signatureLength => m.signatureLength
  | .version => m.version.setWidth 32
  | .messageType => m.messageType.setWidth 32
  | .serviceId => m.serviceId.setWidth 32
  | .payloadLength => m.payloadLength
  | .encrypted => m.encrypted.setWidth 32
  | .dataLen => BitVec.ofNat 32 m.data.length
  | .sigLen => BitVec.ofNat 32 m.signature.length

end Sys2Proof.Machine
end

