-- ==== Sys2Proof/Machine/Ops.lean ====
section
/-! DEFINITION. The shared operations: little-endian access to the byte spaces (spec 20_memory R35 to R38), the header
(30_encoding R49, R51, R52), the register updates, taking a fault (60_exceptions R100) and reset (70 R115). -/

namespace Sys2Proof.Machine

/-- How one step of the machine ends. -/
abbrev Outcome := Host.Outcome State Fault Refusal

/-! ### Byte spaces -/

/-- The value of a byte sequence, least significant byte first: the sum of byte i times 2^(8 i) (R36, R37). -/
def leValue : List Byte → Nat
  | [] => 0
  | b :: bs => b.toNat + 2 ^ 8 * leValue bs

/-- The n bytes of a value, least significant first (R36). -/
def leBytes (n : Nat) (v : BitVec (8 * n)) : List Byte :=
  (List.range n).map fun i => v.extractLsb' (8 * i) 8

/-- MemRead (R37). It is defined only inside the buffer; `none` outside (log entry 14). -/
def memRead? (buf : List Byte) (addr n : Nat) : Option (BitVec (8 * n)) :=
  if addr + n ≤ buf.length then some (BitVec.ofNat (8 * n) (leValue ((buf.drop addr).take n))) else none

/-- MemWrite (R38). It is defined only inside the buffer; `none` outside (log entry 14). -/
def memWrite? (buf : List Byte) (addr n : Nat) (v : BitVec (8 * n)) : Option (List Byte) :=
  if addr + n ≤ buf.length then some (buf.take addr ++ leBytes n v ++ buf.drop (addr + n)) else none

/-- The sub-sequence s[a .. b) of R11. -/
def slice (s : List Byte) (a b : Nat) : List Byte := (s.take b).drop a

/-! ### The fixed header -/

/-- The six fields of the fixed header (R49). -/
structure Header where
  signatureLength : Word32
  version         : Byte
  messageType     : Word16
  serviceId       : Word16
  payloadLength   : Word32
  encrypted       : Word16
  deriving DecidableEq, Repr

/-- The header at the front of a buffer (R51, R64); `none` exactly when the buffer is shorter than HDR
(Laws.readHeader_eq_none). -/
def readHeader? (buf : List Byte) : Option Header := do
  let sl ← memRead? buf 0 4
  let ver ← memRead? buf 4 1
  let mt ← memRead? buf 5 2
  let sid ← memRead? buf 7 2
  let pl ← memRead? buf 9 4
  let enc ← memRead? buf 13 2
  return { signatureLength := sl, version := ver, messageType := mt, serviceId := sid, payloadLength := pl,
           encrypted := enc }

/-- The header bytes of a Message in wire order (R49, R84). -/
def headerBytes (m : Msg) : List Byte :=
  leBytes 4 m.signatureLength ++ leBytes 1 m.version ++ leBytes 2 m.messageType ++ leBytes 2 m.serviceId ++
    leBytes 4 m.payloadLength ++ leBytes 2 m.encrypted

/-- The frame of a Message: header, data, signature, nothing between and nothing after (R48, R81). -/
def frameOf (m : Msg) : List Byte := headerBytes m ++ m.data ++ m.signature

/-- The frame size T (R79). -/
def frameSize (m : Msg) : Nat := HDR + m.data.length + m.signature.length

/-- The Message of a parsed header and its two routed byte fields (R69). -/
def Header.toMsg (h : Header) (data signature : List Byte) : Msg :=
  { valid := true, signatureLength := h.signatureLength, version := h.version, messageType := h.messageType,
    serviceId := h.serviceId, payloadLength := h.payloadLength, encrypted := h.encrypted, data := data,
    signature := signature }

/-! ### Register updates -/

/-- `set_status(code, rdv)` of R14. -/
def State.setStatus (s : State) (code : Byte) (rdv : Bool) : State := { s with status := statusWord code rdv }

/-- End with an outcome of R98 and no result: RDV ← 0. -/
def State.finish (s : State) (c : Code) : State := s.setStatus c.byte false

/-- Write RDATA and end OK: RDV ← 1 (R26). -/
def State.answer (s : State) (v : Word32) : State := { s with rdata := v, status := statusWord Code.ok.byte true }

/-- Replace IBUF. -/
def State.setIbuf (s : State) (b : List Byte) : State := { s with ibuf := b }

/-- Replace OBUF. -/
def State.setObuf (s : State) (b : List Byte) : State := { s with obuf := b }

/-- Replace MSG. -/
def State.setMsg (s : State) (m : Msg) : State := { s with msg := m }

/-- MSG.valid ← 0; the other bits stay where they are and hold no value (R23; log entry 4). -/
def State.invalidateMsg (s : State) : State := { s with msg := { s.msg with valid := false } }

/-- Write OPND (R25). -/
def State.setOpnd (s : State) (v : Word32) : State := { s with opnd := v }

/-- A host register read returned v (log entry 9). -/
def State.setHostData (s : State) (v : Word32) : State := { s with hostData := v }

/-- The host's command index moves on by one (R18). -/
def State.advanceHostPc (s : State) : State := { s with hostPc := s.hostPc + 1 }

/-! ### Faults and reset -/

/-- Taking a fault: `raise` during a command whose word is w (R100). FAULT and STATUS are written, nothing else is saved or
changed, and control goes nowhere. -/
def State.raise (s : State) (c : Cause) (w : Word16) : State :=
  { s with fault := faultWord c.byte w, status := statusWord c.byte false }

/-- The instance has faulted and executes nothing until reset (R102). -/
def State.faulted (s : State) : Bool := faultF s.fault

/-- The only way back from a fault: reset (R102, R103, R115). Every piece of the instance's state and the host's command
index take their reset values (R32); the configuration stays (R115), and so do the host's coming actions and what it has
read, which are no part of the instance (log entry 5). -/
def State.hostReset (s : State) : State :=
  { State.resetWith s.config with hostQueue := s.hostQueue, hostData := s.hostData }

/-- A command ends by raising c. Its word is the one legal word of the command (log entry 8). -/
def raiseIn (i : Instr) (c : Cause) (s : State) : Outcome := .next (s.raise c (encode i))

/-- The value of RDATA, which it holds only while STATUS.RDV = 1 (R26). -/
def State.rdata? (s : State) : Option Word32 := if statusRdv s.status then some s.rdata else none

end Sys2Proof.Machine
end

