-- ==== Sys2Proof/Machine/BufferPort.lean ====
section
/-! DEFINITION. The buffer port: IN_PUSH, IN_LEN, OUT_POP, OUT_LEN (spec 42_buffer_port R86 to R89). -/

namespace Sys2Proof.Machine

/-- IN_PUSH (R86). -/
def execInPush (s : State) : Outcome :=
  match byteOperand s.opnd with
  | none => raiseIn .inPush .operandRange s
  | some b =>
    if s.ibuf.length = s.config.ibufCap then raiseIn .inPush .capacity s
    else .next ((s.setIbuf (s.ibuf ++ [b])).finish .ok)

/-- IN_LEN (R87). -/
def execInLen (s : State) : Outcome := .next (s.answer (BitVec.ofNat 32 s.ibuf.length))

/-- OUT_POP (R88). -/
def execOutPop (s : State) : Outcome :=
  match s.obuf with
  | [] => .next (s.finish .empty)
  | b :: rest => .next ((s.setObuf rest).answer (b.setWidth 32))

/-- OUT_LEN (R89). -/
def execOutLen (s : State) : Outcome := .next (s.answer (BitVec.ofNat 32 s.obuf.length))

end Sys2Proof.Machine
end

