-- ==== Sys2Proof/Machine/Codec.lean ====
section
/-! DEFINITION. DECODE and ENCODE (spec 40_decode R61 to R76, 41_encode R77 to R84). -/

namespace Sys2Proof.Machine

/-- INCOMPLETE: IBUF is untouched and MSG is invalidated (R63, R67). -/
def decodeIncomplete (s : State) : Outcome := .next (s.invalidateMsg.finish .incomplete)

/-- Message write, consumption and OK: `data` is IBUF[HDR .. b), `signature` is IBUF[b .. b + sl), and the frame leaves the
front of IBUF (R69, R70). -/
def takeFrame (h : Header) (b : Nat) (s : State) : Outcome :=
  let sl := h.signatureLength.toNat
  let dlen := b - HDR
  .next (((s.setMsg (h.toMsg (slice s.ibuf HDR b) (slice s.ibuf b (b + sl)))).setIbuf
    (s.ibuf.drop (HDR + dlen + sl))).finish .ok)

/-- The LEGACY router: the boundary is len(IBUF) - sl (R65, R66, R68). R66's test sl > n - HDR is written as a sum, since
all arithmetic is in naturals (R10) and n ≥ HDR here. -/
def decodeLegacy (h : Header) (s : State) : Outcome :=
  let n := s.ibuf.length
  let sl := h.signatureLength.toNat
  let b := n - sl
  if n < HDR + sl then raiseIn .decode .sigUnderflow s
  else if s.config.msgDataCap < b - HDR ∨ s.config.msgSigCap < sl then raiseIn .decode .capacity s
  else takeFrame h b s

/-- The STRICT router: the boundary is HDR + pl, and a frame that can never be held raises before the wait (R67, R68). -/
def decodeStrict (h : Header) (s : State) : Outcome :=
  let sl := h.signatureLength.toNat
  let pl := h.payloadLength.toNat
  let need := HDR + pl + sl
  if s.config.msgDataCap < pl ∨ s.config.msgSigCap < sl ∨ s.config.ibufCap < need then raiseIn .decode .capacity s
  else if s.ibuf.length < need then decodeIncomplete s
  else takeFrame h (HDR + pl) s

/-- DECODE (R75). There is no header exactly when len(IBUF) < HDR (R63, R64). -/
def execDecode (s : State) : Outcome :=
  match readHeader? s.ibuf with
  | none => decodeIncomplete s
  | some h =>
    match s.config.framingMode with
    | .legacy => decodeLegacy h s
    | .strict => decodeStrict h s

/-- ENCODE (R84): the signature length is validated, the frame is appended to OBUF, and the Message is consumed
(R78, R80, R81, R83). `payload_length` is written as stored (R82). -/
def execEncode (s : State) : Outcome :=
  if s.msg.valid = false then raiseIn .encode .msgInvalid s
  else if s.msg.signatureLength.toNat ≠ s.msg.signature.length then .next (s.invalidateMsg.finish .validationError)
  else if s.config.obufCap < s.obuf.length + frameSize s.msg then raiseIn .encode .capacity s
  else .next (((s.setObuf (s.obuf ++ frameOf s.msg)).invalidateMsg).finish .ok)

/-- The bytes of a field stored one by one from an offset: the two loops of R81. -/
def memWriteBytes? (buf : List Byte) (addr : Nat) : List Byte → Option (List Byte)
  | [] => some buf
  | b :: bs => do
    let buf' ← memWrite? buf addr 1 b
    memWriteBytes? buf' (addr + 1) bs

/-- R81 as it is written: reserve T zero bytes at the back of OBUF, then store every field by MemWrite. ENCODE appends the
frame in one go; that both give the same bytes is an obligation. -/
def appendByWrites? (obuf : List Byte) (m : Msg) : Option (List Byte) := do
  let base := obuf.length
  let b0 := obuf ++ List.replicate (frameSize m) 0
  let b1 ← memWrite? b0 (base + 0) 4 m.signatureLength
  let b2 ← memWrite? b1 (base + 4) 1 m.version
  let b3 ← memWrite? b2 (base + 5) 2 m.messageType
  let b4 ← memWrite? b3 (base + 7) 2 m.serviceId
  let b5 ← memWrite? b4 (base + 9) 4 m.payloadLength
  let b6 ← memWrite? b5 (base + 13) 2 m.encrypted
  let b7 ← memWriteBytes? b6 (base + HDR) m.data
  memWriteBytes? b7 (base + HDR + m.data.length) m.signature

end Sys2Proof.Machine
end

