-- ==== Sys2Proof/Machine/MessagePort.lean ====
section
/-! DEFINITION. The message port: MSG_NEW, MSG_WR, MSG_RD, MSG_PUSH_DATA, MSG_PUSH_SIG, MSG_RD_DATA, MSG_RD_SIG
(spec 43_message_port R90 to R96). -/

namespace Sys2Proof.Machine

/-- The Message MSG_NEW writes: every header field 0, both byte fields empty (R90). -/
def Msg.fresh : Msg :=
  { valid := true, signatureLength := 0, version := 0, messageType := 0, serviceId := 0, payloadLength := 0,
    encrypted := 0, data := [], signature := [] }

/-- MSG_NEW (R90). -/
def execMsgNew (s : State) : Outcome := .next ((s.setMsg Msg.fresh).finish .ok)

/-- MSG_WR (R91). Selecting a read-only length is an illegal command whatever the state (R58, R59; log entry 13). -/
def execMsgWr (field : Selector) (s : State) : Outcome :=
  if field.writable = false then raiseIn (.msgWr field) .illegalCommand s
  else if s.msg.valid = false then raiseIn (.msgWr field) .msgInvalid s
  else if overWidth field s.opnd then raiseIn (.msgWr field) .operandRange s
  else .next ((s.setMsg (s.msg.writeField field s.opnd)).finish .ok)

/-- MSG_RD (R92). -/
def execMsgRd (field : Selector) (s : State) : Outcome :=
  if s.msg.valid = false then raiseIn (.msgRd field) .msgInvalid s
  else .next (s.answer (s.msg.readField field))

/-- The shared shape of the two byte pushes: validity, operand, capacity, in that priority (R93, R94, R105). -/
def pushMsgByte (i : Instr) (len cap : Nat) (put : Byte → Msg) (s : State) : Outcome :=
  if s.msg.valid = false then raiseIn i .msgInvalid s
  else
    match byteOperand s.opnd with
    | none => raiseIn i .operandRange s
    | some b => if len = cap then raiseIn i .capacity s else .next ((s.setMsg (put b)).finish .ok)

/-- MSG_PUSH_DATA (R93). -/
def execMsgPushData (s : State) : Outcome :=
  pushMsgByte .msgPushData s.msg.data.length s.config.msgDataCap (fun b => { s.msg with data := s.msg.data ++ [b] }) s

/-- MSG_PUSH_SIG (R94). -/
def execMsgPushSig (s : State) : Outcome :=
  pushMsgByte .msgPushSig s.msg.signature.length s.config.msgSigCap
    (fun b => { s.msg with signature := s.msg.signature ++ [b] }) s

/-- The shared shape of the two byte reads: validity, then the bound, which is the actual length (R95, R96). -/
def readMsgByte (i : Instr) (field : List Byte) (s : State) : Outcome :=
  if s.msg.valid = false then raiseIn i .msgInvalid s
  else
    match field[indexOperand s.opnd]? with
    | none => raiseIn i .indexRange s
    | some b => .next (s.answer (b.setWidth 32))

/-- MSG_RD_DATA (R95). -/
def execMsgRdData (s : State) : Outcome := readMsgByte .msgRdData s.msg.data s

/-- MSG_RD_SIG (R96). -/
def execMsgRdSig (s : State) : Outcome := readMsgByte .msgRdSig s.msg.signature s

end Sys2Proof.Machine
end

