-- ==== Sys2Proof/Machine/Dispatch.lean ====
section
/-! DEFINITION. The dispatch of a legal command to its rule: the last line of the step of spec 30_encoding R56. The test of
FAULT.F and of the word come before it, in Machine/HostPort.lean. -/

namespace Sys2Proof.Machine

/-- Execute a command by its rule. It always answers a next state: a command that raises goes on to the faulted state. -/
def exec (i : Instr) (s : State) : Host.Outcome State Fault Refusal :=
  match i with
  | .decode => Sys2Proof.Machine.execDecode s
  | .encode => Sys2Proof.Machine.execEncode s
  | .inPush => Sys2Proof.Machine.execInPush s
  | .inLen => Sys2Proof.Machine.execInLen s
  | .outPop => Sys2Proof.Machine.execOutPop s
  | .outLen => Sys2Proof.Machine.execOutLen s
  | .msgNew => Sys2Proof.Machine.execMsgNew s
  | .msgWr field => Sys2Proof.Machine.execMsgWr field s
  | .msgRd field => Sys2Proof.Machine.execMsgRd field s
  | .msgPushData => Sys2Proof.Machine.execMsgPushData s
  | .msgPushSig => Sys2Proof.Machine.execMsgPushSig s
  | .msgRdData => Sys2Proof.Machine.execMsgRdData s
  | .msgRdSig => Sys2Proof.Machine.execMsgRdSig s

end Sys2Proof.Machine
end

