-- ==== Sys2Proof/Machine/HostPort.lean ====
section
/-! DEFINITION. The host interface: CW writes, OPND writes, register reads and reset (spec 10_state R24 to R30,
30_encoding R56, 60_exceptions R102, 70 R115). -/

namespace Sys2Proof.Machine

/-- A CW write (R56): nothing executes while FAULT.F = 1 (R102), an illegal word raises ILLEGAL_COMMAND with FCW = the word
(R59), and a legal word executes by its rule. The host's command index moves on by one in every case (R18; log entry 6). -/
def issueCommand (w : Word16) (s : State) : Outcome :=
  let s := s.advanceHostPc
  if s.faulted then .next s
  else
    match decode w with
    | .error _ => .next (s.raise .illegalCommand w)
    | .ok i => exec i s

/-- A host register read (R30). It has no side effect on the instance (R42); the value goes to the host. CW has no readable
value and RDATA holds one only while STATUS.RDV = 1 (R24, R26). -/
def hostRead (r : HostReg) (s : State) : Outcome :=
  match r with
  | .cw => .refused .commandPortRead
  | .opnd => .next (s.setHostData s.opnd)
  | .rdata =>
    match s.rdata? with
    | some v => .next (s.setHostData v)
    | none => .fault .rdataHoldsNoValue
  | .status => .next (s.setHostData (s.status.setWidth 32))
  | .fault => .next (s.setHostData s.fault)

/-- `SETOP RDATA`: the host reads RDATA and writes the value to OPND (95 P3; log entry 16). -/
def hostCopyRdata (s : State) : Outcome :=
  match s.rdata? with
  | some v => .next ((s.setHostData v).setOpnd v)
  | none => .fault .rdataHoldsNoValue

/-- One host action. A host write to a register it may only read is refused (R30). -/
def runAction (a : HostAction) (s : State) : Outcome :=
  match a with
  | .writeCw w => issueCommand w s
  | .writeOpnd v => .next (s.setOpnd v)
  | .copyRdata => hostCopyRdata s
  | .read r => hostRead r s
  | .writeReadOnly r _ => .refused (.readOnlyWrite r)
  | .reset => .next s.hostReset

/-- The host's next action, taken off its queue; none when the host does nothing (log entry 5). -/
def nextAction? (s : State) : Option (HostAction × State) :=
  match s.hostQueue with
  | [] => none
  | a :: rest => some (a, { s with hostQueue := rest })

/-- The host has nothing to do: the instance is idle and keeps all its state (R114; log entry 7). -/
def idle (s : State) : Outcome := .next s

/-- The host is about to write this table word to CW, before anything else it has queued. -/
def queueCommandWord (s : State) (nbits w : Nat) : State :=
  { s with hostQueue := .writeCw (tableWord nbits w) :: s.hostQueue }

end Sys2Proof.Machine
end

