-- ==== Sys2Proof/Machine/Step.lean ====
section
/-! DEFINITION. One step: the host's next action, or idling (spec 00_scope R13, 70 R125: one CW write is one step). -/

namespace Sys2Proof.Machine

/-- One step of the machine. -/
def step (s : State) : Host.Outcome State Fault Refusal :=
  match nextAction? s with
  | none => idle s
  | some (a, s') => runAction a s'

/-- The state in which the very next step writes this word to CW (log entry 12). -/
def State.withFetchWord (s : State) (nbits w : Nat) : State := queueCommandWord s nbits w

end Sys2Proof.Machine
end

