-- ==== Sys2Proof/Machine/Assembler.lean ====
section
/-! DEFINITION. The textual form of host programs and its pseudo-instructions (spec 30_encoding R60). It has no effect on the
machine (92 D18): a line stands for a list of host actions. -/

namespace Sys2Proof.Machine

/-- One line of a host program (R60). -/
inductive AsmLine where
  /-- A command, with the current OPND. -/
  | command (i : Instr)
  /-- SETOP imm. -/
  | setop (imm : Word32)
  /-- SETOP RDATA, as 95_test_vectors P3 writes it (log entry 16). -/
  | setopRdata
  /-- READ STATUS, READ RDATA, READ FAULT. -/
  | read (r : ReadOnlyReg)
  /-- PUSHB b0 b1 … bk; PUSH b is the case of one byte. -/
  | pushb (bs : List Word32)
  /-- WR field, v. -/
  | wr (field : Selector) (v : Word32)
  /-- PD b. -/
  | pd (b : Word32)
  /-- PS b. -/
  | ps (b : Word32)
  /-- POPN n. -/
  | popn (n : Nat)
  deriving DecidableEq, Repr

/-- The register a READ line reads. -/
def ReadOnlyReg.toHostReg : ReadOnlyReg → HostReg
  | .rdata => .rdata
  | .status => .status
  | .fault => .fault

/-- SETOP v and then the command: the shape of PUSH, WR, PD and PS (R60). -/
def withOperand (v : Word32) (i : Instr) : List HostAction := [.writeOpnd v, .writeCw (encode i)]

/-- What the host does for a line: the expansions of R60. -/
def AsmLine.expand : AsmLine → List HostAction
  | .command i => [.writeCw (encode i)]
  | .setop imm => [.writeOpnd imm]
  | .setopRdata => [.copyRdata]
  | .read r => [.read r.toHostReg]
  | .pushb bs => bs.flatMap fun b => withOperand b .inPush
  | .wr field v => withOperand v (.msgWr field)
  | .pd b => withOperand b .msgPushData
  | .ps b => withOperand b .msgPushSig
  | .popn n => (List.replicate n [.writeCw (encode .outPop), .read .status, .read .rdata]).flatten

/-! ### Text -/

/-- The mnemonic of a command (R57). -/
def mnemonicOf : Instr → String
  | .decode => "DECODE"
  | .encode => "ENCODE"
  | .inPush => "IN_PUSH"
  | .inLen => "IN_LEN"
  | .outPop => "OUT_POP"
  | .outLen => "OUT_LEN"
  | .msgNew => "MSG_NEW"
  | .msgWr _ => "MSG_WR"
  | .msgRd _ => "MSG_RD"
  | .msgPushData => "MSG_PUSH_DATA"
  | .msgPushSig => "MSG_PUSH_SIG"
  | .msgRdData => "MSG_RD_DATA"
  | .msgRdSig => "MSG_RD_SIG"

/-- The name of a selected field (R60). -/
def selectorName : Selector → String
  | .signatureLength => "sl"
  | .version => "ver"
  | .messageType => "mt"
  | .serviceId => "sid"
  | .payloadLength => "pl"
  | .encrypted => "enc"
  | .dataLen => "dlen"
  | .sigLen => "slen"

/-- The words of a line: cut at blanks and at the comma of WR (log entry 18). -/
def tokens : List Char → List Char → List (List Char)
  | [], [] => []
  | [], cur => [cur.reverse]
  | c :: cs, cur =>
    if c = ' ' ∨ c = ',' ∨ c = '\t' then
      match cur with
      | [] => tokens cs []
      | _ :: _ => cur.reverse :: tokens cs []
    else tokens cs (c :: cur)

/-- The value of a digit in a base up to 16. -/
def digit? (base : Nat) (c : Char) : Option Nat :=
  let v :=
    if '0'.toNat ≤ c.toNat ∧ c.toNat ≤ '9'.toNat then some (c.toNat - '0'.toNat)
    else if 'a'.toNat ≤ c.toNat ∧ c.toNat ≤ 'f'.toNat then some (c.toNat - 'a'.toNat + 10)
    else if 'A'.toNat ≤ c.toNat ∧ c.toNat ≤ 'F'.toNat then some (c.toNat - 'A'.toNat + 10)
    else none
  match v with
  | some d => if d < base then some d else none
  | none => none

/-- The digits of a number, most significant first, after the value read so far. -/
def digits? (base : Nat) : List Char → Nat → Option Nat
  | [], acc => some acc
  | c :: cs, acc =>
    match digit? base c with
    | some d => digits? base cs (acc * base + d)
    | none => none

/-- A decimal number, or a hexadecimal one with 0x (R60). -/
def number? : List Char → Option Nat
  | [] => none
  | '0' :: 'x' :: d :: ds => digits? 16 (d :: ds) 0
  | d :: ds => digits? 10 (d :: ds) 0

/-- An immediate: 0 ≤ imm ≤ 2^32 - 1 (R60). -/
def imm? (t : List Char) : Option Word32 :=
  match number? t with
  | some n => if n < 2 ^ 32 then some (BitVec.ofNat 32 n) else none
  | none => none

/-- A field named by SEL number or by name (R60). -/
def field? (t : List Char) : Option Selector :=
  match String.ofList t with
  | "sl" => some .signatureLength
  | "ver" => some .version
  | "mt" => some .messageType
  | "sid" => some .serviceId
  | "pl" => some .payloadLength
  | "enc" => some .encrypted
  | "dlen" => some .dataLen
  | "slen" => some .sigLen
  | _ =>
    match number? t with
    | some n => if n < 16 then selectorOf (BitVec.ofNat 4 n) else none
    | none => none

/-- A field MSG_WR may name: SEL 0 to 5 (R60). -/
def writableField? (t : List Char) : Option Selector :=
  match field? t with
  | some f => if f.writable then some f else none
  | none => none

/-- A register READ may name (R60). -/
def readReg? (t : List Char) : Option ReadOnlyReg :=
  match String.ofList t with
  | "STATUS" => some .status
  | "RDATA" => some .rdata
  | "FAULT" => some .fault
  | _ => none

/-- A line with no written operand: the eleven commands that use the current OPND or none (R60). -/
def bareLine? (k : String) : Option AsmLine :=
  match k with
  | "DECODE" => some (.command .decode)
  | "ENCODE" => some (.command .encode)
  | "IN_PUSH" => some (.command .inPush)
  | "IN_LEN" => some (.command .inLen)
  | "OUT_POP" => some (.command .outPop)
  | "OUT_LEN" => some (.command .outLen)
  | "MSG_NEW" => some (.command .msgNew)
  | "MSG_PUSH_DATA" => some (.command .msgPushData)
  | "MSG_PUSH_SIG" => some (.command .msgPushSig)
  | "MSG_RD_DATA" => some (.command .msgRdData)
  | "MSG_RD_SIG" => some (.command .msgRdSig)
  | _ => none

/-- The line of SETOP: an immediate, or RDATA. -/
def setopLine? (t : List Char) : Option AsmLine :=
  if String.ofList t = "RDATA" then some .setopRdata else (imm? t).map .setop

/-- A line with one written operand (R60). -/
def unaryLine? (k : String) (t : List Char) : Option AsmLine :=
  match k with
  | "MSG_WR" => (writableField? t).map fun f => .command (.msgWr f)
  | "MSG_RD" => (field? t).map fun f => .command (.msgRd f)
  | "SETOP" => setopLine? t
  | "READ" => (readReg? t).map .read
  | "PUSH" => (imm? t).map fun b => .pushb [b]
  | "PUSHB" => (imm? t).map fun b => .pushb [b]
  | "PD" => (imm? t).map .pd
  | "PS" => (imm? t).map .ps
  | "POPN" => (number? t).map .popn
  | _ => none

/-- The immediates of PUSHB, all or none. -/
def imms? : List (List Char) → Option (List Word32)
  | [] => some []
  | t :: ts =>
    match imm? t, imms? ts with
    | some b, some bs => some (b :: bs)
    | _, _ => none

/-- A line with two or more written operands: WR and PUSHB (R60). -/
def manyLine? (k : String) (ts : List (List Char)) : Option AsmLine :=
  match k, ts with
  | "WR", [f, v] =>
    match writableField? f, imm? v with
    | some f, some v => some (.wr f v)
    | _, _ => none
  | "PUSHB", ts => (imms? ts).map .pushb
  | _, _ => none

/-- The line a text stands for; none when it is no line of R60. -/
def parseLine? (text : String) : Option AsmLine :=
  match tokens text.toList [] with
  | [] => none
  | [k] => bareLine? (String.ofList k)
  | [k, t] => unaryLine? (String.ofList k) t
  | k :: ts => manyLine? (String.ofList k) ts

/-- The host actions of a program text, all lines or none. -/
def assemble? : List String → Option (List HostAction)
  | [] => some []
  | l :: ls =>
    match parseLine? l, assemble? ls with
    | some a, some rest => some (a.expand ++ rest)
    | _, _ => none

/-- The text of a command: its mnemonic, and the name of its field where it has one (R60). -/
def instrText (i : Instr) : String :=
  match i with
  | .msgWr f => mnemonicOf i ++ " " ++ selectorName f
  | .msgRd f => mnemonicOf i ++ " " ++ selectorName f
  | .decode => mnemonicOf i
  | .encode => mnemonicOf i
  | .inPush => mnemonicOf i
  | .inLen => mnemonicOf i
  | .outPop => mnemonicOf i
  | .outLen => mnemonicOf i
  | .msgNew => mnemonicOf i
  | .msgPushData => mnemonicOf i
  | .msgPushSig => mnemonicOf i
  | .msgRdData => mnemonicOf i
  | .msgRdSig => mnemonicOf i

end Sys2Proof.Machine
end

