-- ==== Sys2Proof/Machine/Instances.lean ====
section
/-! DEFINITION. Several instances: the product of independent single-instance models, interleaved freely
(spec 60_exceptions R112; log entry 11). Each instance keeps its own buffers, MSG, registers and host. -/

namespace Sys2Proof.Machine

/-- The same outcome with the next state put in its place. -/
def Outcome.mapNext {β : Type} (f : State → β) : Outcome → Host.Outcome β Fault Refusal
  | .next t => .next (f t)
  | .fault r => .fault r
  | .refused r => .refused r

/-- One step of instance k of a system; a number that names no instance steps nothing. -/
def stepInstance (k : Nat) (ss : List State) : Host.Outcome (List State) Fault Refusal :=
  match ss[k]? with
  | none => .next ss
  | some s => Outcome.mapNext (ss.set k) (step s)

/-- An interleaving: the instances named by the schedule step in its order; a stop of one of them ends the run. -/
def runSchedule : List Nat → List State → Host.Outcome (List State) Fault Refusal
  | [], ss => .next ss
  | k :: ks, ss =>
    match stepInstance k ss with
    | .next ts => runSchedule ks ts
    | .fault r => .fault r
    | .refused r => .refused r

end Sys2Proof.Machine
end

