-- ==== Sys2Proof/Safety.lean ====
section
/-! DEFINITION. What counts as a good state and a safe run, in the terms the statements use (spec 10_state R19 to R28,
60_exceptions R98 to R102). -/

namespace Sys2Proof.Machine

/-- The byte spaces and the byte fields of MSG are within their capacities (R19, R20, R21). -/
abbrev Memory.wf (s : State) : Prop :=
  s.ibuf.length ≤ s.config.ibufCap ∧ s.obuf.length ≤ s.config.obufCap ∧
    s.msg.data.length ≤ s.config.msgDataCap ∧ s.msg.signature.length ≤ s.config.msgSigCap

/-- Every non-fault outcome (R98). -/
def allCodes : List Code := [.ok, .incomplete, .validationError, .empty]

/-- Every fault cause (R99). -/
def allCauses : List Cause := [.illegalCommand, .msgInvalid, .sigUnderflow, .capacity, .operandRange, .indexRange]

/-- The "raised by" column of R98. -/
def mayEnd (i : Instr) (c : Code) : Bool :=
  match c with
  | .ok => true
  | .incomplete => i = .decode
  | .validationError => i = .encode
  | .empty => i = .outPop

/-- The command reads MSG (the MSG_INVALID row of R99). -/
def readsMsg : Instr → Bool
  | .encode => true
  | .msgWr _ => true
  | .msgRd _ => true
  | .msgPushData => true
  | .msgPushSig => true
  | .msgRdData => true
  | .msgRdSig => true
  | .decode => false
  | .inPush => false
  | .inLen => false
  | .outPop => false
  | .outLen => false
  | .msgNew => false

/-- The command takes a byte or field-value operand (the OPERAND_RANGE row of R99, R55). -/
def checksWidth : Instr → Bool
  | .inPush => true
  | .msgWr _ => true
  | .msgPushData => true
  | .msgPushSig => true
  | .decode => false
  | .encode => false
  | .inLen => false
  | .outPop => false
  | .outLen => false
  | .msgNew => false
  | .msgRd _ => false
  | .msgRdData => false
  | .msgRdSig => false

/-- The "raised by" column of R99 for a legal command word; ILLEGAL_COMMAND is raised by illegal words alone. -/
def mayRaise (mode : FramingMode) (i : Instr) (c : Cause) : Bool :=
  match c with
  | .illegalCommand => false
  | .msgInvalid => readsMsg i
  | .sigUnderflow => i = .decode && mode = .legacy
  | .capacity => i = .decode || i = .encode || i = .inPush || i = .msgPushData || i = .msgPushSig
  | .operandRange => checksWidth i
  | .indexRange => i = .msgRdData || i = .msgRdSig

/-- The recorded cause is one the recorded command word can raise (R99, R100). -/
def causeFitsWord (mode : FramingMode) (c : Cause) (w : Word16) : Bool :=
  match decode w with
  | .error _ => c = .illegalCommand
  | .ok i => mayRaise mode i c

/-- What holds while FAULT.F = 0: FAULT is zero (R28), STATUS.CODE is an outcome of R98, and RDV = 1 only after OK (R26). -/
abbrev RunningWf (s : State) : Prop :=
  s.fault = 0 ∧ (∃ c ∈ allCodes, statusCode s.status = c.byte) ∧
    (statusRdv s.status = true → statusCode s.status = Code.ok.byte)

/-- What holds while FAULT.F = 1: FAULT and STATUS are what one raise wrote, and the word fits the cause (R99, R100). -/
abbrev FaultedWf (s : State) : Prop :=
  ∃ c ∈ allCauses, s.fault = faultWord c.byte (faultFcw s.fault) ∧ s.status = statusWord c.byte false ∧
    causeFitsWord s.config.framingMode c (faultFcw s.fault) = true

/-- The invariant of the machine: a legal configuration, buffers within their capacities, reserved bits of STATUS and FAULT
zero, and STATUS and FAULT telling one consistent story. -/
abbrev Inv (s : State) : Prop :=
  s.config.Legal ∧ Memory.wf s ∧ statusReserved s.status = 0 ∧ faultReserved s.fault = 0 ∧
    (s.faulted = false → RunningWf s) ∧ (s.faulted = true → FaultedWf s)

/-- A run may end here: the host has nothing left to do and the instance has not faulted. A faulted state is never final
(R102). -/
abbrev Final (s : State) : Prop := s.hostQueue = [] ∧ s.faulted = false

/-- A safe run of k steps: every step answers a next state, no state of the run is faulted, the first and every one between
included, and the last is final. A run that reaches a fault is no safe run, also when a later reset clears it (R102). -/
def SafeRun : Nat → State → Prop
  | 0, s => Final s
  | k + 1, s => s.faulted = false ∧ ∃ t, step s = .next t ∧ SafeRun k t

/-- Two states show the host the same: they differ at most in MSG fields while MSG.valid = 0 and in RDATA while
STATUS.RDV = 0, which hold no value (R23, R26, R32). -/
abbrev SameView (s t : State) : Prop :=
  t = { s with msg := t.msg, rdata := t.rdata } ∧ t.msg.valid = s.msg.valid ∧
    (s.msg.valid = true → t.msg = s.msg) ∧ (statusRdv s.status = true → t.rdata = s.rdata)

/-- Two outcomes show the host the same. -/
def SameOutcome : Outcome → Outcome → Prop
  | .next s, .next t => SameView s t
  | .fault r, .fault q => r = q
  | .refused r, .refused q => r = q
  | _, _ => False

end Sys2Proof.Machine
end

