-- ==== Sys2Proof/Certificates/Slice0/Obligations.lean ====
section
/-! DEFINITION. The statements about FHC, from the numbered rules of spec/. Words, codes and layouts are written out from the
spec here, so that a statement does not repeat the model's own definitions. -/

namespace Sys2Proof.Spec

open Sys2Proof.Machine

/-- FAULT after a raise: F in bit 0, CAUSE in bits 15 to 8, FCW in bits 31 to 16 (R28, R100). -/
def faultRegister (cause : Byte) (w : Word16) : Word32 := w.setWidth 32 <<< 16 ||| cause.setWidth 32 <<< 8 ||| 1

/-- The state after a raise: FAULT and STATUS written, everything else as before (R100, R101). -/
def raised (s : State) (cause : Byte) (w : Word16) : State :=
  { s with status := cause.setWidth 16, fault := faultRegister cause w }

/-- The state after an outcome that invalidates MSG: MSG is m, STATUS is the code with RDV = 0, everything else is as
before. The statements say of m only that its validity is 0: its other fields hold no value (R23). -/
def withoutMessage (s : State) (m : Msg) (code : Byte) : State := { s with msg := m, status := code.setWidth 16 }

/-- The command ends INCOMPLETE: MSG invalid, STATUS 0x0001, everything else as before (R63). -/
def EndsIncomplete (s : State) : Prop := ∃ m, m.valid = false ∧ exec .decode s = .next (withoutMessage s m 0x01)

/-- The list of R59: RSV not zero, OPC unassigned, SEL on an opcode without one, or SEL out of the opcode's range. -/
def illegalWord (w : Word16) : Prop :=
  let rsv := w.toNat / 2 ^ 12
  let sel := w.toNat / 2 ^ 8 % 2 ^ 4
  let opc := w.toNat % 2 ^ 8
  rsv ≠ 0 ∨ opc ∉ [0x01, 0x02, 0x10, 0x11, 0x12, 0x13, 0x20, 0x21, 0x22, 0x23, 0x24, 0x25, 0x26] ∨
    (opc ≠ 0x21 ∧ opc ≠ 0x22 ∧ sel ≠ 0) ∨ (opc = 0x21 ∧ 6 ≤ sel) ∨ (opc = 0x22 ∧ 8 ≤ sel)

/-- The 25 legal words (R57, R59). -/
def legalWords : List Word16 :=
  [0x0001, 0x0002, 0x0010, 0x0011, 0x0012, 0x0013, 0x0020, 0x0021, 0x0121, 0x0221, 0x0321, 0x0421, 0x0521] ++
    [0x0022, 0x0122, 0x0222, 0x0322, 0x0422, 0x0522, 0x0622, 0x0722, 0x0023, 0x0024, 0x0025, 0x0026]

/-- le16 of R84. -/
def le16 (v : Word16) : List Byte := [v.extractLsb' 0 8, v.extractLsb' 8 8]

/-- le32 of R84. -/
def le32 (v : Word32) : List Byte :=
  [v.extractLsb' 0 8, v.extractLsb' 8 8, v.extractLsb' 16 8, v.extractLsb' 24 8]

/-- The value MSG_RD reads for a selector, as a natural number (R92). -/
def selected (m : Msg) : Selector → Nat
  | .signatureLength => m.signatureLength.toNat
  | .version => m.version.toNat
  | .messageType => m.messageType.toNat
  | .serviceId => m.serviceId.toNat
  | .payloadLength => m.payloadLength.toNat
  | .encrypted => m.encrypted.toNat
  | .dataLen => m.data.length
  | .sigLen => m.signature.length

/-- The commands that write RDATA when they end OK (R26). -/
def writesRdata : Instr → Bool
  | .inLen => true
  | .outPop => true
  | .outLen => true
  | .msgRd _ => true
  | .msgRdData => true
  | .msgRdSig => true
  | .decode => false
  | .encode => false
  | .inPush => false
  | .msgNew => false
  | .msgWr _ => false
  | .msgPushData => false
  | .msgPushSig => false

/-- The commands that write MSG (R21, R23). -/
def writesMsg : Instr → Bool
  | .decode => true
  | .encode => true
  | .msgNew => true
  | .msgWr _ => true
  | .msgPushData => true
  | .msgPushSig => true
  | .inPush => false
  | .inLen => false
  | .outPop => false
  | .outLen => false
  | .msgRd _ => false
  | .msgRdData => false
  | .msgRdSig => false

/-- The Message of a header and two byte fields, valid (R69). -/
def message (h : Header) (data signature : List Byte) : Msg :=
  ⟨true, h.signatureLength, h.version, h.messageType, h.serviceId, h.payloadLength, h.encrypted, data, signature⟩

/-- The header fields of a Message. -/
def headerOf (m : Msg) : Header :=
  ⟨m.signatureLength, m.version, m.messageType, m.serviceId, m.payloadLength, m.encrypted⟩

/-- MSG with other values in the four fields no rule interprets (R5). -/
def withOpaque (m : Msg) (ver : Byte) (mt sid enc : Word16) : Msg :=
  { m with version := ver, messageType := mt, serviceId := sid, encrypted := enc }

/-- The host's transfer of R85: n times OUT_POP, then IN_PUSH of the byte read. -/
def moveBytes (n : Nat) : List HostAction :=
  (List.replicate n [HostAction.writeCw 0x0012, .copyRdata, .writeCw 0x0010]).flatten

/-- The host's actions of R85: ENCODE, the transfer of T bytes, DECODE. -/
def loopback (m : Msg) : List HostAction :=
  HostAction.writeCw 0x0002 :: (moveBytes (15 + m.data.length + m.signature.length) ++ [HostAction.writeCw 0x0001])

/-- The start of R85: a valid Message whose declared signature length is true and which fits, both buffers empty and large
enough, the instance not faulted, and the host about to run the loopback. -/
def loopbackStart (s : State) : Prop :=
  s.faulted = false ∧ s.msg.valid = true ∧ s.msg.signatureLength.toNat = s.msg.signature.length ∧
    s.msg.data.length ≤ s.config.msgDataCap ∧ s.msg.signature.length ≤ s.config.msgSigCap ∧
    s.ibuf = [] ∧ s.obuf = [] ∧ 15 + s.msg.data.length + s.msg.signature.length ≤ s.config.ibufCap ∧
    15 + s.msg.data.length + s.msg.signature.length ≤ s.config.obufCap ∧ s.hostQueue = loopback s.msg

/-- The number of host actions of the loopback: ENCODE, three for each byte, DECODE. -/
def loopbackSteps (m : Msg) : Nat := 1 + 3 * (15 + m.data.length + m.signature.length) + 1

end Sys2Proof.Spec

open Sys2Proof Sys2Proof.Machine Sys2Proof.Spec

/-! ### Reset, the host's registers and the step -/

/-- R115, R32: reset, at any time and also while faulted, sets every piece of state to its reset value and keeps the
configuration. MSG and RDATA hold no value afterwards. -/
def Obligations.ResetActionRestoresEveryResetValue : Prop :=
  ∀ (s : State) (rest : List HostAction), s.hostQueue = .reset :: rest →
    ∃ t, step s = .next t ∧ t.ibuf = [] ∧ t.obuf = [] ∧ t.msg.valid = false ∧ t.opnd = 0x00000000 ∧
      t.status = 0x0000 ∧ t.fault = 0x00000000 ∧ t.rdata? = none ∧ t.hostPc = 0 ∧ t.config = s.config

/-- R32: the values of the state after reset, in every configuration; State.reset is one of these states. -/
def Obligations.StateAfterResetHoldsTheSpecValues : Prop :=
  (∃ c, State.reset = State.resetWith c) ∧
  ∀ c : Config, (State.resetWith c).ibuf = [] ∧ (State.resetWith c).obuf = [] ∧
    (State.resetWith c).msg.valid = false ∧ (State.resetWith c).opnd = 0x00000000 ∧ (State.resetWith c).rdata? = none ∧ (State.resetWith c).status = 0x0000 ∧
    (State.resetWith c).fault = 0x00000000 ∧ (State.resetWith c).hostPc = 0 ∧ (State.resetWith c).config = c

/-- R116: right after reset any command is accepted, a first DECODE ends INCOMPLETE, and a first ENCODE or MSG-reading
command raises MSG_INVALID. -/
def Obligations.FirstCommandAfterReset : Prop :=
  ∀ (c : Config) (i : Instr), i.wellFormed = true →
    ∃ t, step { State.resetWith c with hostQueue := [.writeCw (encode i)] } = .next t ∧
      (i = .decode → t.status = 0x0001 ∧ t.faulted = false) ∧
      (readsMsg i = true → t.status = 0x0081 ∧ t.fault = faultRegister 0x81 (encode i))

/-- R30 (host read and host write columns), R24, R25, R26, R42: what each host access does. A read changes nothing of the
instance; RDATA has no value while STATUS.RDV = 0. The value read stands in the model's own hostData (log entry 9), and that
a forbidden access stops the machine is the model's reading of "refused" and "faults" (log entry 10). The copy of RDATA to OPND
is a read of RDATA and a write of OPND in one action (log entry 16). -/
def Obligations.HostAccessTable : Prop :=
  ∀ (s : State) (rest : List HostAction) (v : Word32),
    (s.hostQueue = .read .cw :: rest → step s = .refused .commandPortRead) ∧
    (s.hostQueue = .read .opnd :: rest → step s = .next { s with hostQueue := rest, hostData := s.opnd }) ∧
    (s.hostQueue = .read .status :: rest →
      step s = .next { s with hostQueue := rest, hostData := s.status.setWidth 32 }) ∧
    (s.hostQueue = .read .fault :: rest → step s = .next { s with hostQueue := rest, hostData := s.fault }) ∧
    (s.hostQueue = .read .rdata :: rest → statusRdv s.status = true →
      step s = .next { s with hostQueue := rest, hostData := s.rdata }) ∧
    (s.hostQueue = .read .rdata :: rest → statusRdv s.status = false → step s = .fault .rdataHoldsNoValue) ∧
    (s.hostQueue = .copyRdata :: rest → statusRdv s.status = true →
      step s = .next { s with hostQueue := rest, hostData := s.rdata, opnd := s.rdata }) ∧
    (s.hostQueue = .copyRdata :: rest → statusRdv s.status = false → step s = .fault .rdataHoldsNoValue) ∧
    (s.hostQueue = .writeOpnd v :: rest → step s = .next { s with hostQueue := rest, opnd := v }) ∧
    (∀ r, s.hostQueue = .writeReadOnly r v :: rest → step s = .refused (.readOnlyWrite r))

/-- R114: with nothing for the host to do the instance is idle and keeps all its state (that an idle step exists is the
model's reading, log entry 7). -/
def Obligations.IdleInstanceKeepsAllItsState : Prop :=
  ∀ s : State, s.hostQueue = [] → step s = .next s

/-- R56, R24: on an instance that has not faulted, writing a word that decodes to a command executes the command, on the
state with the host's command index moved on by one (R18) and the action taken off the host's queue (log entry 5). -/
def Obligations.CwWriteRunsTheDecodedCommand : Prop :=
  ∀ (s : State) (w : Word16) (rest : List HostAction) (i : Instr), s.hostQueue = .writeCw w :: rest →
    s.faulted = false → decode w = .ok i →
    step s = exec i { s with hostQueue := rest, hostPc := s.hostPc + 1 }

/-- R59: a word on the list of illegal words, and no other, raises ILLEGAL_COMMAND with FCW = the word; exactly the 25
listed words are legal. -/
def Obligations.IllegalWordsRaiseIllegalCommand : Prop :=
  (∀ (s : State) (w : Word16) (rest : List HostAction), s.hostQueue = .writeCw w :: rest → s.faulted = false →
    illegalWord w → step s = .next (raised { s with hostQueue := rest, hostPc := s.hostPc + 1 } 0x80 w)) ∧
  (∀ w : Word16, ¬ illegalWord w ↔ w ∈ legalWords) ∧ legalWords.Nodup ∧ legalWords.length = 25 ∧
  (∀ w : Word16, w ∈ legalWords ↔ ∃ i, decode w = .ok i)

/-- R102: while FAULT.F = 1 a CW write executes nothing; the host still writes OPND and reads STATUS and FAULT, RDATA has no
value, only reset clears FAULT.F, and the state is not final. The host's own command index and queue move on (log entry 6,
the model's choice). Inv rules out states with FAULT.F = 1 and RDV = 1, which no raise leaves. -/
def Obligations.QuiescentInstanceExecutesNothing : Prop :=
  ∀ s : State, Inv s → s.faulted = true →
    (∀ w rest, s.hostQueue = .writeCw w :: rest →
      step s = .next { s with hostQueue := rest, hostPc := s.hostPc + 1 }) ∧
    (∀ v rest, s.hostQueue = .writeOpnd v :: rest → step s = .next { s with hostQueue := rest, opnd := v }) ∧
    (∀ rest, s.hostQueue = .read .fault :: rest → step s = .next { s with hostQueue := rest, hostData := s.fault }) ∧
    (∀ rest, s.hostQueue = .read .rdata :: rest → step s = .fault .rdataHoldsNoValue) ∧
    (∀ t, step s = .next t → t.faulted = false → ∃ rest, s.hostQueue = .reset :: rest) ∧ ¬ Final s

/-- R102, R104, R28: over any number of steps without a reset, a faulted instance keeps IBUF, OBUF, MSG, RDATA, STATUS and
FAULT, so FAULT still records the first fault. -/
def Obligations.FaultStaysAsFirstRecordedUntilReset : Prop :=
  ∀ (n : Nat) (s t : State), s.faulted = true → HostAction.reset ∉ s.hostQueue →
    Host.Core.run Sys2Proof.core n s = .next t →
    t.fault = s.fault ∧ t.status = s.status ∧ t.ibuf = s.ibuf ∧ t.obuf = s.obuf ∧ t.msg = s.msg ∧ t.rdata = s.rdata

/-- R100, R101: when a CW write raises, FAULT gets F = 1, a cause of R99 and FCW = the word written, STATUS gets the same
code with RDV = 0, and nothing else of the instance changes. -/
def Obligations.RaiseWritesOnlyFaultAndStatus : Prop :=
  ∀ (s t : State) (w : Word16) (rest : List HostAction), s.hostQueue = .writeCw w :: rest → s.faulted = false →
    step s = .next t → t.faulted = true →
    ∃ cause ∈ [0x80#8, 0x81#8, 0x82#8, 0x83#8, 0x84#8, 0x85#8],
      t = raised { s with hostQueue := rest, hostPc := s.hostPc + 1 } cause w

/-- R18: each CW write moves the host's command index on by one, whatever the word and also on a faulted instance; no other
action but reset changes it. (That a faulted instance's CW write counts is the model's reading, log entry 6.) -/
def Obligations.HostCommandIndexCountsCwWrites : Prop :=
  ∀ (s t : State) (a : HostAction) (rest : List HostAction), s.hostQueue = a :: rest → step s = .next t →
    t.hostQueue = rest ∧
    ((∃ w, a = .writeCw w) → t.hostPc = s.hostPc + 1) ∧ ((∀ w, a ≠ .writeCw w) → a ≠ .reset → t.hostPc = s.hostPc)

/-- R24, R26, R30: the machine stops only on a read of RDATA without a value, a read of CW, or a write of a read-only
register; in particular no command stops it. -/
def Obligations.StepStopsOnlyOnForbiddenHostAccess : Prop :=
  ∀ s : State,
    (∀ f, step s = .fault f ↔ f = .rdataHoldsNoValue ∧ statusRdv s.status = false ∧
      ∃ rest, s.hostQueue = .read .rdata :: rest ∨ s.hostQueue = .copyRdata :: rest) ∧
    (∀ r, step s = .refused r ↔
      ∃ rest, (s.hostQueue = .read .cw :: rest ∧ r = .commandPortRead) ∨
        ∃ q v, s.hostQueue = .writeReadOnly q v :: rest ∧ r = .readOnlyWrite q)

/-! ### Invariants and whole-machine rules -/

/-- The invariant holds right after reset in every legal configuration (the configuration State.reset holds is the model's
choice, log entry 1). -/
def Obligations.InvariantHoldsAfterReset : Prop :=
  (∀ c : Config, c.Legal → Inv (State.resetWith c)) ∧ Inv State.reset

/-- R6, R19, R20, R21, R26, R27, R28, R99, R100: from every state that meets it, a step keeps the invariant: a legal
configuration, buffers and byte fields within their capacities, reserved bits zero, RDV = 1 only after OK, and FAULT zero or
the record of a raise that its command word can make. -/
def Obligations.StepKeepsInvariant : Prop :=
  ∀ s t : State, Inv s → step s = .next t → Inv t

/-- R23, R26, R31, R32: MSG fields while MSG.valid = 0 and RDATA while STATUS.RDV = 0 hold no value: two states that differ
in nothing else step to outcomes that differ in nothing else, whatever the host does. -/
def Obligations.HiddenValuesNeverShow : Prop :=
  ∀ s t : State, SameView s t → SameOutcome (step s) (step t)

/-- R112: instances share no state. In any interleaving that does not stop, each instance ends where it ends alone after
as many of its own steps, so the system is the product of its instances (the product's form is log entry 11). -/
def Obligations.InstancesAreIndependent : Prop :=
  ∀ (schedule : List Nat) (ss ts : List State), runSchedule schedule ss = .next ts →
    ts.length = ss.length ∧
    ∀ (k : Nat) (s : State), ss[k]? = some s →
      ∃ t, ts[k]? = some t ∧ Host.Core.run Sys2Proof.core (schedule.count k) s = .next t

/-- R16, R20, R19, R21, R25, R30 (the written-by column): the frame of every command. OPND, the configuration and the host's
fields never change; IBUF, OBUF, MSG and RDATA change only by the commands named for them; FAULT changes only by a raise,
which then changes nothing but FAULT and STATUS. RDATA is not written by the
other commands; that its bits then stay, though they hold no value, is log entry 4. -/
def Obligations.FrameOfEveryCommand : Prop :=
  ∀ (i : Instr) (s t : State), exec i s = .next t →
    t.opnd = s.opnd ∧ t.config = s.config ∧ t.hostPc = s.hostPc ∧ t.hostQueue = s.hostQueue ∧ t.hostData = s.hostData ∧
    (i ≠ .inPush → i ≠ .decode → t.ibuf = s.ibuf) ∧ (i ≠ .encode → i ≠ .outPop → t.obuf = s.obuf) ∧
    (writesMsg i = false → t.msg = s.msg) ∧ (writesRdata i = false → t.rdata = s.rdata) ∧
    (t.fault = s.fault ∨ t = { s with fault := t.fault, status := t.status })

/-- R19, R20, R33: the frame of the two byte spaces, byte by byte. IN_PUSH keeps every byte already in IBUF, ENCODE every
byte already in OBUF; OUT_POP and DECODE remove bytes from the front and keep every other. -/
def Obligations.FrameOfTheByteSpaces : Prop :=
  ∀ s t : State,
    (exec .inPush s = .next t → t.obuf = s.obuf ∧ ∀ a < s.ibuf.length, t.ibuf[a]? = s.ibuf[a]?) ∧
    (exec .encode s = .next t → t.ibuf = s.ibuf ∧ ∀ a < s.obuf.length, t.obuf[a]? = s.obuf[a]?) ∧
    (exec .outPop s = .next t → t.ibuf = s.ibuf ∧ ∀ a : Nat, t.obuf[a]? = s.obuf[a + 1]?) ∧
    (exec .decode s = .next t → t.obuf = s.obuf ∧
      ((t.status ≠ 0x0000 ∧ ∀ a : Nat, t.ibuf[a]? = s.ibuf[a]?) ∨
        (t.status = 0x0000 ∧
          ∀ a : Nat, t.ibuf[a]? = s.ibuf[a + (15 + t.msg.data.length + t.msg.signature.length)]?)))

/-- R26: RDV = 1, and so RDATA holds a value, exactly after a command that writes RDATA and ends OK; every other outcome leaves
RDATA without a value. -/
def Obligations.ResultIsValidExactlyAfterReadingCommands : Prop :=
  ∀ (i : Instr) (s t : State), exec i s = .next t →
    (statusRdv t.status = true ↔ writesRdata i = true ∧ statusCode t.status = 0x00) ∧
    (t.rdata? = none ↔ writesRdata i = false ∨ statusCode t.status ≠ 0x00)

/-- R98, R99: the outcome codes and who may write them. A legal command ends with a code of R98 that names it, or raises a
cause of R99 that names it; codes 0x04 to 0x7F and 0x86 to 0xFF are never written. -/
def Obligations.OutcomesByCommand : Prop :=
  allCodes.map Code.byte = [0x00, 0x01, 0x02, 0x03] ∧
  allCauses.map Cause.byte = [0x80, 0x81, 0x82, 0x83, 0x84, 0x85] ∧
  ∀ (i : Instr) (s t : State), i.wellFormed = true → exec i s = .next t →
    (∃ c ∈ allCodes, mayEnd i c = true ∧ statusCode t.status = c.byte ∧ t.fault = s.fault) ∨
    (∃ c ∈ allCauses, mayRaise s.config.framingMode i c = true ∧ t = raised s c.byte (encode i))

/-- R23: MSG.valid is set only by MSG_NEW and by a DECODE that ends OK, and cleared by a command only when a DECODE ends
INCOMPLETE or an ENCODE ends OK or VALIDATION_ERROR. -/
def Obligations.MsgValidityChangesOnlyAsListed : Prop :=
  ∀ (i : Instr) (s t : State), exec i s = .next t → t.msg.valid ≠ s.msg.valid →
    (t.msg.valid = true ∧ t.status = 0x0000 ∧ (i = .msgNew ∨ i = .decode)) ∨
    (t.msg.valid = false ∧ ((i = .decode ∧ t.status = 0x0001) ∨
      (i = .encode ∧ (t.status = 0x0000 ∨ t.status = 0x0002))))

/-- R5: version, message_type, service_id and encrypted decide nothing. With other values of the four in MSG, every command
ends with the same STATUS, FAULT, IBUF, OBUF length, validity and routed bytes. -/
def Obligations.OpaqueMessageFieldsDecideNothing : Prop :=
  ∀ (i : Instr) (s t : State) (ver : Byte) (mt sid enc : Word16), exec i s = .next t →
    ∃ u, exec i { s with msg := withOpaque s.msg ver mt sid enc } = .next u ∧
      u.status = t.status ∧ u.fault = t.fault ∧ u.ibuf = t.ibuf ∧ u.obuf.length = t.obuf.length ∧
      u.msg.valid = t.msg.valid ∧ u.msg.data = t.msg.data ∧ u.msg.signature = t.msg.signature ∧
      u.msg.signatureLength = t.msg.signatureLength ∧ u.msg.payloadLength = t.msg.payloadLength

/-- R5, R64: DECODE routes by the declared lengths alone. Two input buffers of one length that agree but for the version,
message_type, service_id and encrypted bytes give the same STATUS, FAULT, rest of IBUF length, data and signature. -/
def Obligations.DecodeIgnoresOpaqueHeaderBytes : Prop :=
  ∀ (s t : State) (other : List Byte), other.length = s.ibuf.length →
    (∀ a : Nat, a < 4 ∨ 9 ≤ a ∧ a < 13 ∨ 15 ≤ a → other[a]? = s.ibuf[a]?) → exec .decode s = .next t →
    ∃ u, exec .decode { s with ibuf := other } = .next u ∧ u.status = t.status ∧ u.fault = t.fault ∧
      u.ibuf.length = t.ibuf.length ∧ u.msg.data = t.msg.data ∧ u.msg.signature = t.msg.signature

/-! ### Encodings -/

/-- R54, R57, R58: decoding an encoded well-formed command gives it back, and every word that decodes is the encoding of
what it decodes to, which is well-formed; so each command has exactly one word (log entry 8 rests on this). -/
def Obligations.DecodeAndEncodeAgree : Prop :=
  (∀ i : Instr, i.wellFormed = true → decode (encode i) = .ok i) ∧
  (∀ (w : Word16) (i : Instr), decode w = .ok i → i.wellFormed = true ∧ encode i = w)

/-- R57: the full words of the opcode map, written out bit by bit, decode to their commands. -/
def Obligations.WordsOfTheOpcodeMapDecode : Prop :=
  decode 0b0000000000000001 = .ok .decode ∧ decode 0b0000000000000010 = .ok .encode ∧
  decode 0b0000000000010000 = .ok .inPush ∧ decode 0b0000000000010010 = .ok .outPop ∧
  decode 0b0000000000100000 = .ok .msgNew ∧ decode 0b0000010100100001 = .ok (.msgWr .encrypted) ∧
  decode 0b0000011100100010 = .ok (.msgRd .sigLen) ∧ decode 0b0000000000100101 = .ok .msgRdData

/-- The rows of opcode_table.json do not overlap, and a word that decodes lies in the one row of its command. -/
def Obligations.OpcodeTableRowsAgreeWithDecoder : Prop :=
  (∀ w : Word16, (opcodeRows.filter fun r => r.covers w).length ≤ 1) ∧
  ∀ (w : Word16) (i : Instr), decode w = .ok i →
    (opcodeRows.filter fun r => r.covers w).map OpcodeRow.mnemonic = [mnemonicOf i]

/-- R51, R49, R36: the six fields of a header, byte by byte, least significant byte at the lowest offset. -/
def Obligations.HeaderFieldsAreLittleEndian : Prop :=
  ∀ (b0 b1 b2 b3 b4 b5 b6 b7 b8 b9 b10 b11 b12 b13 b14 : Byte) (rest : List Byte),
    readHeader? (b0 :: b1 :: b2 :: b3 :: b4 :: b5 :: b6 :: b7 :: b8 :: b9 :: b10 :: b11 :: b12 :: b13 :: b14 :: rest) =
      some ⟨b3 ++ b2 ++ b1 ++ b0, b4, b6 ++ b5, b8 ++ b7, b12 ++ b11 ++ b10 ++ b9, b14 ++ b13⟩

/-- R51, R52: reading the header that a Message is written with gives its six fields back, whatever follows it. -/
def Obligations.HeaderReadsBackAsWritten : Prop :=
  ∀ (m : Msg) (rest : List Byte), readHeader? (headerBytes m ++ rest) = some (headerOf m)

/-- R60: commands, host actions and pseudo-instructions expand as listed, and the text of every well-formed command reads back
as the command (the details of the text R60 leaves open are log entry 18). PUSHB of no byte and POPN 0 do nothing, so PUSHB and
POPN are exactly their repetitions. -/
def Obligations.AssemblerFollowsTheSyntax : Prop :=
  (∀ i, (AsmLine.command i).expand = [.writeCw (encode i)]) ∧
  (∀ v, (AsmLine.setop v).expand = [.writeOpnd v]) ∧
  (AsmLine.read .status).expand = [.read .status] ∧ (AsmLine.read .rdata).expand = [.read .rdata] ∧
  (AsmLine.read .fault).expand = [.read .fault] ∧
  (AsmLine.pushb []).expand = [] ∧
  (∀ b, (AsmLine.pushb [b]).expand = [.writeOpnd b, .writeCw 0x0010]) ∧
  (∀ b bs, (AsmLine.pushb (b :: bs)).expand = [.writeOpnd b, .writeCw 0x0010] ++ (AsmLine.pushb bs).expand) ∧
  (∀ f v, (AsmLine.wr f v).expand = [.writeOpnd v, .writeCw (encode (.msgWr f))]) ∧
  (∀ b, (AsmLine.pd b).expand = [.writeOpnd b, .writeCw 0x0023]) ∧
  (∀ b, (AsmLine.ps b).expand = [.writeOpnd b, .writeCw 0x0024]) ∧
  (AsmLine.popn 0).expand = [] ∧
  (∀ n, (AsmLine.popn (n + 1)).expand =
    [.writeCw 0x0012, .read .status, .read .rdata] ++ (AsmLine.popn n).expand) ∧
  (∀ i : Instr, i.wellFormed = true → parseLine? (instrText i) = some (.command i))

/-- R60, R86, R43: PUSHB puts its bytes at the back of IBUF in order, one command each, when they are bytes and fit. -/
def Obligations.PushingBytesBuffersThemInOrder : Prop :=
  ∀ (bs : List Word32) (s : State) (rest : List HostAction), s.faulted = false →
    s.hostQueue = (AsmLine.pushb bs).expand ++ rest → (∀ b ∈ bs, b.toNat < 256) →
    s.ibuf.length + bs.length ≤ s.config.ibufCap →
    ∃ t, Host.Core.run Sys2Proof.core (2 * bs.length) s = .next t ∧
      t.ibuf = s.ibuf ++ bs.map (fun b => BitVec.ofNat 8 b.toNat) ∧ t.hostQueue = rest ∧ t.fault = s.fault ∧
      t.obuf = s.obuf ∧ t.msg = s.msg ∧ t.hostPc = s.hostPc + bs.length

/-! ### Buffer port -/

/-- R86: IN_PUSH, its word and all three outcomes. -/
def Obligations.InPushAppendsOneByte : Prop :=
  decode 0x0010 = .ok .inPush ∧ ∀ s : State,
    (256 ≤ s.opnd.toNat → exec .inPush s = .next (raised s 0x84 0x0010)) ∧
    (s.opnd.toNat < 256 → s.ibuf.length = s.config.ibufCap → exec .inPush s = .next (raised s 0x83 0x0010)) ∧
    (s.opnd.toNat < 256 → s.ibuf.length ≠ s.config.ibufCap →
      exec .inPush s = .next { s with ibuf := s.ibuf ++ [BitVec.ofNat 8 s.opnd.toNat], status := 0x0000 })

/-- R87, R89: IN_LEN and OUT_LEN, their words; they always complete, and in a legal configuration the whole length is in
RDATA. -/
def Obligations.LengthCommandsReadBufferLengths : Prop :=
  decode 0x0011 = .ok .inLen ∧ decode 0x0013 = .ok .outLen ∧ ∀ s : State,
    exec .inLen s = .next { s with rdata := BitVec.ofNat 32 s.ibuf.length, status := 0x0100 } ∧
    exec .outLen s = .next { s with rdata := BitVec.ofNat 32 s.obuf.length, status := 0x0100 } ∧
    (s.config.Legal → Memory.wf s → (BitVec.ofNat 32 s.ibuf.length).toNat = s.ibuf.length ∧
      (BitVec.ofNat 32 s.obuf.length).toNat = s.obuf.length)

/-- R88: OUT_POP, its word and both outcomes. -/
def Obligations.OutPopReturnsTheOldestByte : Prop :=
  decode 0x0012 = .ok .outPop ∧ ∀ s : State,
    (s.obuf = [] → exec .outPop s = .next { s with status := 0x0003 }) ∧
    (∀ b rest, s.obuf = b :: rest →
      exec .outPop s = .next { s with rdata := BitVec.ofNat 32 b.toNat, obuf := rest, status := 0x0100 })

/-! ### Message port -/

/-- R90: MSG_NEW, its word; it writes a valid Message of zeros and empty fields, from every state. -/
def Obligations.MsgNewStartsAnEmptyMessage : Prop :=
  decode 0x0020 = .ok .msgNew ∧
  ∀ s : State, exec .msgNew s = .next { s with msg := ⟨true, 0, 0, 0, 0, 0, 0, [], []⟩, status := 0x0000 }

/-- R91: MSG_WR, its words and all outcomes. When it completes, the selected field holds exactly OPND, and every other
field, both actual lengths and both byte fields are unchanged. No word with SEL 6 or more is a command. -/
def Obligations.MsgWrWritesTheSelectedField : Prop :=
  (∀ w : Word16, w.toNat % 2 ^ 8 = 0x21 → 6 ≤ w.toNat / 2 ^ 8 % 2 ^ 4 → ∃ e, decode w = .error e) ∧
  ∀ (s : State) (f : Selector),
    (f.writable = true → decode (BitVec.ofNat 16 (0x21 + 256 * (selCode f).toNat)) = .ok (.msgWr f)) ∧
    (f.writable = true → s.msg.valid = false →
      exec (.msgWr f) s = .next (raised s 0x81 (BitVec.ofNat 16 (0x21 + 256 * (selCode f).toNat)))) ∧
    (f.writable = true → s.msg.valid = true → 2 ^ fieldWidth f ≤ s.opnd.toNat →
      exec (.msgWr f) s = .next (raised s 0x84 (BitVec.ofNat 16 (0x21 + 256 * (selCode f).toNat)))) ∧
    (f.writable = true → s.msg.valid = true → s.opnd.toNat < 2 ^ fieldWidth f →
      ∃ m, exec (.msgWr f) s = .next { s with msg := m, status := 0x0000 } ∧ selected m f = s.opnd.toNat ∧
        (∀ g, g ≠ f → selected m g = selected s.msg g) ∧ m.data = s.msg.data ∧ m.signature = s.msg.signature ∧
        m.valid = true)

/-- R58: MSG_WR of a read-only length is an illegal command, with its own word 0x0621 or 0x0721 recorded. That the two are
terms of Instr at all is the model's choice (log entry 13). -/
def Obligations.MsgWrOfALengthIsIllegal : Prop :=
  ∀ s : State, exec (.msgWr .dataLen) s = .next (raised s 0x80 0x0621) ∧
    exec (.msgWr .sigLen) s = .next (raised s 0x80 0x0721) ∧ decode 0x0621 = .error .selectorOutOfRange ∧
    decode 0x0721 = .error .selectorOutOfRange

/-- R92: MSG_RD, its words and both outcomes, for all eight selectors. No word with SEL 8 or more is a command. -/
def Obligations.MsgRdReadsTheSelectedField : Prop :=
  (∀ w : Word16, w.toNat % 2 ^ 8 = 0x22 → 8 ≤ w.toNat / 2 ^ 8 % 2 ^ 4 → ∃ e, decode w = .error e) ∧
  ∀ (s : State) (f : Selector),
    decode (BitVec.ofNat 16 (0x22 + 256 * (selCode f).toNat)) = .ok (.msgRd f) ∧
    (s.msg.valid = false →
      exec (.msgRd f) s = .next (raised s 0x81 (BitVec.ofNat 16 (0x22 + 256 * (selCode f).toNat)))) ∧
    (s.msg.valid = true →
      exec (.msgRd f) s = .next { s with rdata := BitVec.ofNat 32 (selected s.msg f), status := 0x0100 })

/-- R93: MSG_PUSH_DATA, its word and all outcomes in their priority; payload_length stays. -/
def Obligations.MsgPushDataAppendsOneByte : Prop :=
  decode 0x0023 = .ok .msgPushData ∧ ∀ s : State,
    (s.msg.valid = false → exec .msgPushData s = .next (raised s 0x81 0x0023)) ∧
    (s.msg.valid = true → 256 ≤ s.opnd.toNat → exec .msgPushData s = .next (raised s 0x84 0x0023)) ∧
    (s.msg.valid = true → s.opnd.toNat < 256 → s.msg.data.length = s.config.msgDataCap →
      exec .msgPushData s = .next (raised s 0x83 0x0023)) ∧
    (s.msg.valid = true → s.opnd.toNat < 256 → s.msg.data.length ≠ s.config.msgDataCap →
      exec .msgPushData s =
        .next { s with msg := { s.msg with data := s.msg.data ++ [BitVec.ofNat 8 s.opnd.toNat] }, status := 0x0000 })

/-- R94: MSG_PUSH_SIG, its word and all outcomes in their priority; signature_length stays. -/
def Obligations.MsgPushSigAppendsOneByte : Prop :=
  decode 0x0024 = .ok .msgPushSig ∧ ∀ s : State,
    (s.msg.valid = false → exec .msgPushSig s = .next (raised s 0x81 0x0024)) ∧
    (s.msg.valid = true → 256 ≤ s.opnd.toNat → exec .msgPushSig s = .next (raised s 0x84 0x0024)) ∧
    (s.msg.valid = true → s.opnd.toNat < 256 → s.msg.signature.length = s.config.msgSigCap →
      exec .msgPushSig s = .next (raised s 0x83 0x0024)) ∧
    (s.msg.valid = true → s.opnd.toNat < 256 → s.msg.signature.length ≠ s.config.msgSigCap →
      exec .msgPushSig s =
        .next { s with msg := { s.msg with signature := s.msg.signature ++ [BitVec.ofNat 8 s.opnd.toNat] },
                       status := 0x0000 })

/-- R95, R96: MSG_RD_DATA and MSG_RD_SIG, their words and all outcomes; the bound is the actual length. -/
def Obligations.ByteReadsReturnTheIndexedByte : Prop :=
  decode 0x0025 = .ok .msgRdData ∧ decode 0x0026 = .ok .msgRdSig ∧ ∀ s : State,
    (s.msg.valid = false → exec .msgRdData s = .next (raised s 0x81 0x0025) ∧
      exec .msgRdSig s = .next (raised s 0x81 0x0026)) ∧
    (s.msg.valid = true → s.msg.data.length ≤ s.opnd.toNat → exec .msgRdData s = .next (raised s 0x85 0x0025)) ∧
    (s.msg.valid = true → s.msg.signature.length ≤ s.opnd.toNat → exec .msgRdSig s = .next (raised s 0x85 0x0026)) ∧
    (∀ b, s.msg.valid = true → s.msg.data[s.opnd.toNat]? = some b →
      exec .msgRdData s = .next { s with rdata := BitVec.ofNat 32 b.toNat, status := 0x0100 }) ∧
    (∀ b, s.msg.valid = true → s.msg.signature[s.opnd.toNat]? = some b →
      exec .msgRdSig s = .next { s with rdata := BitVec.ofNat 32 b.toNat, status := 0x0100 })

/-! ### DECODE -/

/-- R63: a buffer shorter than the header ends INCOMPLETE in both modes, with nothing consumed. -/
def Obligations.ShortBufferIsIncomplete : Prop :=
  ∀ s : State, s.ibuf.length < 15 → EndsIncomplete s

/-- R65, R69, R70, R71: a LEGACY DECODE takes the whole buffer as one frame: after the header the last sl bytes are the
signature and the rest is data, whatever payload_length says, and IBUF is empty afterwards. -/
def Obligations.LegacyDecodeSplitsByBufferedLength : Prop :=
  ∀ (s : State) (h : Header) (hdr data sig : List Byte), s.config.framingMode = .legacy →
    s.ibuf = hdr ++ data ++ sig → hdr.length = 15 → readHeader? hdr = some h →
    sig.length = h.signatureLength.toNat → data.length ≤ s.config.msgDataCap → sig.length ≤ s.config.msgSigCap →
    exec .decode s = .next { s with msg := message h data sig, ibuf := [], status := 0x0000 }

/-- R66: in LEGACY a declared signature longer than what follows the header raises SIG_UNDERFLOW; IBUF and MSG are
unchanged and the block is quiescent. -/
def Obligations.LegacyUnderflowFaults : Prop :=
  ∀ (s : State) (h : Header), s.config.framingMode = .legacy → readHeader? s.ibuf = some h →
    s.ibuf.length - 15 < h.signatureLength.toNat →
    exec .decode s = .next (raised s 0x82 0x0001) ∧ (raised s 0x82 0x0001).faulted = true

/-- R67, R69, R70: a STRICT DECODE waits for 15 + pl + sl bytes, then takes exactly the declared lengths and leaves the
bytes beyond the frame in IBUF. -/
def Obligations.StrictDecodeSplitsByDeclaredLengths : Prop :=
  ∀ (s : State) (h : Header), s.config.framingMode = .strict →
    h.payloadLength.toNat ≤ s.config.msgDataCap → h.signatureLength.toNat ≤ s.config.msgSigCap →
    15 + h.payloadLength.toNat + h.signatureLength.toNat ≤ s.config.ibufCap →
    (readHeader? s.ibuf = some h → s.ibuf.length < 15 + h.payloadLength.toNat + h.signatureLength.toNat →
      EndsIncomplete s) ∧
    (∀ hdr data sig rest, s.ibuf = hdr ++ data ++ sig ++ rest → hdr.length = 15 → readHeader? hdr = some h →
      data.length = h.payloadLength.toNat → sig.length = h.signatureLength.toNat →
      exec .decode s = .next { s with msg := message h data sig, ibuf := rest, status := 0x0000 })

/-- R68: CAPACITY, in LEGACY after the underflow check, in STRICT before the wait; and a LEGACY configuration whose byte
fields can hold any buffered frame never raises it. -/
def Obligations.DecodeCapacityFaults : Prop :=
  (∀ (s : State) (h : Header), s.config.framingMode = .legacy → readHeader? s.ibuf = some h →
    h.signatureLength.toNat ≤ s.ibuf.length - 15 →
    (s.config.msgDataCap < s.ibuf.length - h.signatureLength.toNat - 15 ∨
      s.config.msgSigCap < h.signatureLength.toNat) →
    exec .decode s = .next (raised s 0x83 0x0001)) ∧
  (∀ (s : State) (h : Header), s.config.framingMode = .strict → readHeader? s.ibuf = some h →
    (s.config.msgDataCap < h.payloadLength.toNat ∨ s.config.msgSigCap < h.signatureLength.toNat ∨
      s.config.ibufCap < 15 + h.payloadLength.toNat + h.signatureLength.toNat) →
    exec .decode s = .next (raised s 0x83 0x0001)) ∧
  (∀ s t : State, s.config.framingMode = .legacy → Memory.wf s → s.config.ibufCap - 15 ≤ s.config.msgDataCap →
    s.config.ibufCap - 15 ≤ s.config.msgSigCap → exec .decode s = .next t → statusCode t.status ≠ 0x83)

/-- R70, source §8: after a DECODE that ends OK, the bytes gone from the front of IBUF are exactly
15 + len(data) + len(signature), in both modes. -/
def Obligations.DecodeConsumesExactlyItsFrame : Prop :=
  ∀ s t : State, exec .decode s = .next t → t.status = 0x0000 →
    15 + t.msg.data.length + t.msg.signature.length ≤ s.ibuf.length ∧
    t.ibuf = s.ibuf.drop (15 + t.msg.data.length + t.msg.signature.length)

/-- R69, R76: after a DECODE that ends OK the signature has its declared length in both modes, and in STRICT the data has
too. -/
def Obligations.DeclaredLengthsHoldAfterDecode : Prop :=
  ∀ s t : State, exec .decode s = .next t → t.status = 0x0000 →
    t.msg.valid = true ∧ t.msg.signature.length = t.msg.signatureLength.toNat ∧
    (s.config.framingMode = .strict → t.msg.data.length = t.msg.payloadLength.toNat)

/-- R72: in LEGACY a DECODE on the first n bytes of a longer frame of total size T misparses it: the data is short by T - n
bytes and the tail of the short buffer becomes the signature, or SIG_UNDERFLOW is raised. -/
def Obligations.LegacyMisparsesAPartialFrame : Prop :=
  ∀ (s : State) (m : Msg) (n : Nat), s.config.framingMode = .legacy →
    m.signatureLength.toNat = m.signature.length → m.data.length ≤ s.config.msgDataCap →
    m.signature.length ≤ s.config.msgSigCap → 15 ≤ n → n < 15 + m.data.length + m.signature.length →
    s.ibuf = (frameOf m).take n →
    (n - 15 < m.signature.length → exec .decode s = .next (raised s 0x82 0x0001)) ∧
    (m.signature.length ≤ n - 15 → ∃ data sig,
      exec .decode s = .next { s with msg := message (headerOf m) data sig, ibuf := [], status := 0x0000 } ∧
      data ++ sig = (m.data ++ m.signature).take (n - 15) ∧ sig.length = m.signature.length ∧
      data.length = m.data.length - (15 + m.data.length + m.signature.length - n))

/-- R73: a whole frame followed by e > 0 more bytes. LEGACY over-reads: the last sl bytes buffered become the signature.
STRICT, with a true payload_length, does not. -/
def Obligations.LegacyOverReadsAndStrictDoesNot : Prop :=
  ∀ (s : State) (m : Msg) (extra : List Byte), extra ≠ [] → m.signatureLength.toNat = m.signature.length →
    m.data.length + extra.length ≤ s.config.msgDataCap → m.signature.length ≤ s.config.msgSigCap →
    s.ibuf = frameOf m ++ extra →
    (s.config.framingMode = .legacy → m.signature.length ≤ extra.length →
      exec .decode s = .next { s with
        msg := message (headerOf m) (m.data ++ m.signature ++ extra.take (extra.length - m.signature.length))
          (extra.drop (extra.length - m.signature.length)),
        ibuf := [], status := 0x0000 }) ∧
    (s.config.framingMode = .legacy → extra.length < m.signature.length →
      exec .decode s = .next { s with
        msg := message (headerOf m) (m.data ++ m.signature.take extra.length)
          (m.signature.drop extra.length ++ extra),
        ibuf := [], status := 0x0000 }) ∧
    (s.config.framingMode = .strict → m.payloadLength.toNat = m.data.length → Memory.wf s →
      exec .decode s = .next { s with
        msg := message (headerOf m) m.data m.signature, ibuf := extra, status := 0x0000 })

/-- R119, R67: in STRICT, DECODE on any proper prefix of a frame whose lengths are true ends INCOMPLETE and keeps every
byte, so it may be issued after any IN_PUSH. -/
def Obligations.StrictWaitsOnEveryProperPrefix : Prop :=
  ∀ (s : State) (m : Msg) (n : Nat), s.config.framingMode = .strict →
    m.signatureLength.toNat = m.signature.length → m.payloadLength.toNat = m.data.length →
    m.data.length ≤ s.config.msgDataCap → m.signature.length ≤ s.config.msgSigCap →
    15 + m.data.length + m.signature.length ≤ s.config.ibufCap → n < 15 + m.data.length + m.signature.length →
    s.ibuf = (frameOf m).take n → EndsIncomplete s

/-- R42: a DECODE that ended INCOMPLETE ends the same when repeated with no IN_PUSH in between; the two states after differ
at most in what holds no value. -/
def Obligations.IncompleteDecodeRepeatsUnchanged : Prop :=
  ∀ s t : State, exec .decode s = .next t → t.status = 0x0001 →
    t.ibuf = s.ibuf ∧ ∃ u, exec .decode t = .next u ∧ SameView t u

/-! ### ENCODE -/

/-- R84, R78, R80: ENCODE, its word and all outcomes in the order of R105; the frame bytes are written out field by field. -/
def Obligations.EncodeAppendsTheFrame : Prop :=
  decode 0x0002 = .ok .encode ∧ ∀ s : State,
    (s.msg.valid = false → exec .encode s = .next (raised s 0x81 0x0002)) ∧
    (s.msg.valid = true → s.msg.signatureLength.toNat ≠ s.msg.signature.length →
      ∃ m, m.valid = false ∧ exec .encode s = .next (withoutMessage s m 0x02)) ∧
    (s.msg.valid = true → s.msg.signatureLength.toNat = s.msg.signature.length →
      s.config.obufCap < s.obuf.length + (15 + s.msg.data.length + s.msg.signature.length) →
      exec .encode s = .next (raised s 0x83 0x0002)) ∧
    (s.msg.valid = true → s.msg.signatureLength.toNat = s.msg.signature.length →
      s.obuf.length + (15 + s.msg.data.length + s.msg.signature.length) ≤ s.config.obufCap →
      ∃ m, m.valid = false ∧ exec .encode s = .next { withoutMessage s m 0x00 with
        obuf := s.obuf ++ le32 s.msg.signatureLength ++ [s.msg.version] ++ le16 s.msg.messageType ++
          le16 s.msg.serviceId ++ le32 s.msg.payloadLength ++ le16 s.msg.encrypted ++ s.msg.data ++ s.msg.signature })

/-- R81: reserving T zero bytes and storing every field by MemWrite gives the bytes ENCODE appends; every MemWrite is in
range. -/
def Obligations.EncodeEqualsReserveAndMemWrite : Prop :=
  (∀ (obuf : List Byte) (m : Msg), appendByWrites? obuf m = some (obuf ++ frameOf m)) ∧
  (∀ s t : State, exec .encode s = .next t → t.status = 0x0000 → appendByWrites? s.obuf s.msg = some t.obuf)

/-- R82, 90 C4: no outcome of ENCODE depends on payload_length, and only its own four bytes of the frame do. -/
def Obligations.EncodeNeverChecksPayloadLength : Prop :=
  ∀ (s t : State) (pl : Word32), exec .encode s = .next t →
    ∃ u, exec .encode { s with msg := { s.msg with payloadLength := pl } } = .next u ∧
      u.status = t.status ∧ u.fault = t.fault ∧ u.obuf.length = t.obuf.length ∧
      (∀ a : Nat, a < s.obuf.length + 9 ∨ s.obuf.length + 13 ≤ a → u.obuf[a]? = t.obuf[a]?) ∧
      (t.status = 0x0000 → (u.obuf.drop (s.obuf.length + 9)).take 4 = le32 pl)

/-! ### The round trip -/

/-- R85, LEGACY: ENCODE, the host's transfer of every byte from OBUF to IBUF, and DECODE give the Message back in all its
fields, for every Message whose signature length is true. The host's copy of a byte is one action (log entry 16). -/
def Obligations.LegacyRoundTripReproducesTheMessage : Prop :=
  ∀ s : State, loopbackStart s → s.config.framingMode = .legacy →
    ∃ t, Host.Core.run Sys2Proof.core (loopbackSteps s.msg) s = .next t ∧ t.msg = s.msg ∧ t.ibuf = [] ∧ t.obuf = [] ∧
      t.status = 0x0000 ∧ t.fault = s.fault ∧ t.hostQueue = []

/-- R85, STRICT: the round trip reproduces the Message exactly when payload_length is the data length; a larger one ends
INCOMPLETE or raises CAPACITY, a smaller one ends OK with another split and leaves the difference in IBUF. The host's copy of a
byte is one action (log entry 16). -/
def Obligations.StrictRoundTripNeedsTruePayloadLength : Prop :=
  ∀ s : State, loopbackStart s → s.config.framingMode = .strict →
    ∃ t, Host.Core.run Sys2Proof.core (loopbackSteps s.msg) s = .next t ∧
      (s.msg.payloadLength.toNat = s.msg.data.length → t.msg = s.msg ∧ t.ibuf = [] ∧ t.status = 0x0000) ∧
      (s.msg.data.length < s.msg.payloadLength.toNat → t.status = 0x0001 ∨ t.status = 0x0083) ∧
      (s.msg.payloadLength.toNat < s.msg.data.length → t.status = 0x0000 ∧
        t.msg.data = s.msg.data.take s.msg.payloadLength.toNat ∧
        t.ibuf.length = s.msg.data.length - s.msg.payloadLength.toNat)

/-! ### Safe runs -/

/-- R102: a safe run is one that takes all its steps, ends in a final state and is faulted in none of its states; so a run
whose host writes an illegal word is never safe, not even when the host resets afterwards. The run is over the model's list of
host actions (log entry 5), and a final state is one whose host has nothing left to do (log entry 6). -/
def Obligations.SafeRunNeverReachesAFault : Prop :=
  (∀ (k : Nat) (s : State), SafeRun k s ↔
    (∃ t, Host.Core.run Sys2Proof.core k s = .next t ∧ Final t) ∧
      ∀ j ≤ k, ∀ u, Host.Core.run Sys2Proof.core j s = .next u → u.faulted = false) ∧
  (∀ (k : Nat) (s : State) (w : Word16) (rest : List HostAction), s.hostQueue = .writeCw w :: rest → illegalWord w →
    ¬ SafeRun k s)
end

