-- ==== Sys2Proof/Laws/Bytes.lean ====
section
/-! SUPPORT. Little-endian access to a byte sequence and the shape of the header (spec 20_memory R36 to R38). -/

namespace Sys2Proof.Laws

open Sys2Proof.Machine

/-- The header size as a number (R7); give it to omega instead of unfolding HDR. -/
theorem HDR_eq : HDR = 15 := rfl

@[simp] theorem leBytes_length (n : Nat) (v : BitVec (8 * n)) : (leBytes n v).length = n := by
  simp [leBytes]

/-- The value of n bytes fits 8 n bits. -/
theorem leValue_lt (bs : List Byte) : leValue bs < 2 ^ (8 * bs.length) := by
  induction bs with
  | nil => simp [leValue]
  | cons b bs ih =>
    have hb : b.toNat < 2 ^ 8 := b.isLt
    have e : 2 ^ (8 * (b :: bs).length) = 2 ^ 8 * 2 ^ (8 * bs.length) := by
      rw [← Nat.pow_add]; congr 1; simp; omega
    rw [e]
    simp only [leValue]
    have : 2 ^ 8 * leValue bs + 2 ^ 8 ≤ 2 ^ 8 * 2 ^ (8 * bs.length) := by
      rw [← Nat.mul_succ]; exact Nat.mul_le_mul_left _ ih
    omega

/-- Reading the bytes a value was split into gives the value. -/
theorem leValue_map_range (k n v : Nat) (h : v < 2 ^ (8 * k + 8 * n)) :
    leValue ((List.range' k n).map fun i => BitVec.ofNat 8 (v >>> (8 * i))) = v >>> (8 * k) := by
  induction n generalizing k with
  | zero =>
    simp only [List.range'_zero, List.map_nil, leValue, Nat.shiftRight_eq_div_pow]
    exact (Nat.div_eq_of_lt (by simpa using h)).symm
  | succ n ih =>
    have h' : v < 2 ^ (8 * (k + 1) + 8 * n) := by
      have e : 8 * (k + 1) + 8 * n = 8 * k + 8 * (n + 1) := by omega
      rw [e]; exact h
    rw [List.range'_succ, List.map_cons, leValue, ih (k + 1) h', BitVec.toNat_ofNat, Nat.mul_add,
      Nat.mul_one, Nat.shiftRight_add, Nat.shiftRight_eq_div_pow (v >>> (8 * k)) 8]
    have := Nat.mod_add_div (v >>> (8 * k)) (2 ^ 8)
    omega

theorem leBytes_eq_map_range (n : Nat) (v : BitVec (8 * n)) :
    leBytes n v = (List.range' 0 n).map fun i => BitVec.ofNat 8 (v.toNat >>> (8 * i)) := by
  simp only [leBytes, List.range_eq_range']
  apply List.map_congr_left
  intro i _
  apply BitVec.eq_of_toNat_eq
  simp [BitVec.extractLsb'_toNat]

/-- Split into bytes and put together again, a value is unchanged (R36). -/
@[simp] theorem leValue_leBytes (n : Nat) (v : BitVec (8 * n)) : leValue (leBytes n v) = v.toNat := by
  have h := leValue_map_range 0 n v.toNat (by simpa using v.isLt)
  rw [leBytes_eq_map_range]
  simpa using h

/-- MemRead of the bytes MemWrite lays down gives the value back, wherever they stand in the buffer (R37, R38). -/
theorem memRead_of_append (pre post : List Byte) (n : Nat) (v : BitVec (8 * n)) :
    memRead? (pre ++ leBytes n v ++ post) pre.length n = some v := by
  have hl : pre.length + n ≤ (pre ++ leBytes n v ++ post).length := by simp
  have ht : ((pre ++ leBytes n v ++ post).drop pre.length).take n = leBytes n v := by
    rw [List.append_assoc, List.drop_left]
    exact List.take_left' (leBytes_length n v)
  rw [memRead?, if_pos hl, ht, leValue_leBytes, BitVec.ofNat_toNat, BitVec.setWidth_eq]

/-- MemWrite replaces exactly its n bytes (R38). -/
theorem memWrite_of_append (pre old post : List Byte) (n : Nat) (v : BitVec (8 * n)) (h : old.length = n) :
    memWrite? (pre ++ old ++ post) pre.length n v = some (pre ++ leBytes n v ++ post) := by
  subst h
  have hl : pre.length + old.length ≤ (pre ++ old ++ post).length := by simp
  have ht : (pre ++ old ++ post).take pre.length = pre := by
    rw [List.append_assoc]; exact List.take_left
  have hd : (pre ++ old ++ post).drop (pre.length + old.length) = post := by
    rw [← List.length_append]; exact List.drop_left
  rw [memWrite?, if_pos hl, ht, hd]

/-- MemWrite never changes the length of a buffer. -/
theorem memWrite_length {buf out : List Byte} {addr n : Nat} {v : BitVec (8 * n)}
    (h : memWrite? buf addr n v = some out) : out.length = buf.length := by
  unfold memWrite? at h
  split at h
  · cases h; simp; omega
  · cases h

/-- MemRead is defined exactly inside the buffer (R37). -/
theorem memRead_eq_none (buf : List Byte) (addr n : Nat) : memRead? buf addr n = none ↔ buf.length < addr + n := by
  unfold memRead?
  split <;> simp <;> omega

/-- There is a header exactly when the buffer is not shorter than HDR (R63, R64). -/
theorem readHeader_eq_none (buf : List Byte) : readHeader? buf = none ↔ buf.length < HDR := by
  constructor
  · intro h
    by_contra hn
    have hl : 15 ≤ buf.length := by simpa [HDR] using hn
    have d : ∀ addr n, addr + n ≤ 15 →
        memRead? buf addr n = some (BitVec.ofNat (8 * n) (leValue ((buf.drop addr).take n))) := by
      intro addr n ha
      rw [memRead?, if_pos (by omega)]
    simp [readHeader?, d] at h
  · intro h
    have hl : buf.length < 13 + 2 := by simpa [HDR] using h
    have e : memRead? buf 13 2 = none := (memRead_eq_none buf 13 2).2 hl
    unfold readHeader?
    simp only [e, Option.bind_eq_bind, Option.bind_none, Option.bind_fun_none]

theorem readHeader_isSome {buf : List Byte} (h : HDR ≤ buf.length) : ∃ hd, readHeader? buf = some hd := by
  cases e : readHeader? buf with
  | none => exact absurd ((readHeader_eq_none buf).1 e) (by omega)
  | some hd => exact ⟨hd, rfl⟩

theorem headerLength_of_readHeader {buf : List Byte} {hd : Header} (h : readHeader? buf = some hd) :
    HDR ≤ buf.length := by
  by_contra hn
  rw [(readHeader_eq_none buf).2 (by omega)] at h
  cases h

@[simp] theorem headerBytes_length (m : Msg) : (headerBytes m).length = HDR := by
  simp [headerBytes, HDR]

@[simp] theorem frameOf_length (m : Msg) : (frameOf m).length = frameSize m := by
  simp [frameOf, frameSize, Nat.add_assoc]

@[simp] theorem slice_length {s : List Byte} {a b : Nat} (h : b ≤ s.length) : (slice s a b).length = b - a := by
  simp [slice, Nat.min_eq_left h]

end Sys2Proof.Laws
end

