-- ==== Sys2Proof/Laws/Encoding.lean ====
section
/-! SUPPORT. The fields of an encoded command word (spec 30_encoding R54). -/

namespace Sys2Proof.Laws

/-- The three fields put together come apart again, whatever they hold (R54). -/
theorem fields_of_word (sel : BitVec 4) (opc : BitVec 8) :
    cwOpc ((0#4 ++ sel) ++ opc) = opc ∧ cwSel ((0#4 ++ sel) ++ opc) = sel ∧ cwRsv ((0#4 ++ sel) ++ opc) = 0 := by
  refine ⟨?_, ?_, ?_⟩ <;> apply BitVec.eq_of_getLsbD_eq <;> intro k hk
  · simp only [cwOpc, BitVec.getLsbD_extractLsb', BitVec.getLsbD_append]; simp [hk]
  · have h : ¬ 8 + k < 8 := by omega
    simp only [cwSel, BitVec.getLsbD_extractLsb', BitVec.getLsbD_append]; simp [hk]
  · have h : ¬ 12 + k < 8 := by omega
    have h' : ¬ 12 + k - 8 < 4 := by omega
    simp only [cwRsv, BitVec.getLsbD_extractLsb', BitVec.getLsbD_append]; simp [hk, h, h']

@[simp] theorem cwOpc_encode (i : Instr) : cwOpc (encode i) = opcodeOf i := (fields_of_word _ _).1

@[simp] theorem cwSel_encode (i : Instr) : cwSel (encode i) = selOf i := (fields_of_word _ _).2.1

@[simp] theorem cwRsv_encode (i : Instr) : cwRsv (encode i) = 0 := (fields_of_word _ _).2.2

@[simp] theorem selectorOf_selCode (f : Selector) : selectorOf (selCode f) = some f := by
  cases f <;> decide

end Sys2Proof.Laws
end

