-- ==== Sys2Proof/Laws/State.lean ====
section
/-! SUPPORT. What each register update leaves in each field of the state, so that no proof unfolds a record update. -/

namespace Sys2Proof.Machine.State

variable (s : State)

@[simp] theorem setStatus_config (c : Byte) (r : Bool) : (s.setStatus c r).config = s.config := rfl
@[simp] theorem setStatus_ibuf (c : Byte) (r : Bool) : (s.setStatus c r).ibuf = s.ibuf := rfl
@[simp] theorem setStatus_obuf (c : Byte) (r : Bool) : (s.setStatus c r).obuf = s.obuf := rfl
@[simp] theorem setStatus_msg (c : Byte) (r : Bool) : (s.setStatus c r).msg = s.msg := rfl
@[simp] theorem setStatus_opnd (c : Byte) (r : Bool) : (s.setStatus c r).opnd = s.opnd := rfl
@[simp] theorem setStatus_rdata (c : Byte) (r : Bool) : (s.setStatus c r).rdata = s.rdata := rfl
@[simp] theorem setStatus_status (c : Byte) (r : Bool) : (s.setStatus c r).status = statusWord c r := rfl
@[simp] theorem setStatus_fault (c : Byte) (r : Bool) : (s.setStatus c r).fault = s.fault := rfl
@[simp] theorem setStatus_hostPc (c : Byte) (r : Bool) : (s.setStatus c r).hostPc = s.hostPc := rfl
@[simp] theorem setStatus_hostQueue (c : Byte) (r : Bool) : (s.setStatus c r).hostQueue = s.hostQueue := rfl
@[simp] theorem setStatus_hostData (c : Byte) (r : Bool) : (s.setStatus c r).hostData = s.hostData := rfl

@[simp] theorem finish_config (c : Code) : (s.finish c).config = s.config := rfl
@[simp] theorem finish_ibuf (c : Code) : (s.finish c).ibuf = s.ibuf := rfl
@[simp] theorem finish_obuf (c : Code) : (s.finish c).obuf = s.obuf := rfl
@[simp] theorem finish_msg (c : Code) : (s.finish c).msg = s.msg := rfl
@[simp] theorem finish_opnd (c : Code) : (s.finish c).opnd = s.opnd := rfl
@[simp] theorem finish_rdata (c : Code) : (s.finish c).rdata = s.rdata := rfl
@[simp] theorem finish_status (c : Code) : (s.finish c).status = statusWord c.byte false := rfl
@[simp] theorem finish_fault (c : Code) : (s.finish c).fault = s.fault := rfl
@[simp] theorem finish_hostPc (c : Code) : (s.finish c).hostPc = s.hostPc := rfl
@[simp] theorem finish_hostQueue (c : Code) : (s.finish c).hostQueue = s.hostQueue := rfl
@[simp] theorem finish_hostData (c : Code) : (s.finish c).hostData = s.hostData := rfl

@[simp] theorem answer_config (v : Word32) : (s.answer v).config = s.config := rfl
@[simp] theorem answer_ibuf (v : Word32) : (s.answer v).ibuf = s.ibuf := rfl
@[simp] theorem answer_obuf (v : Word32) : (s.answer v).obuf = s.obuf := rfl
@[simp] theorem answer_msg (v : Word32) : (s.answer v).msg = s.msg := rfl
@[simp] theorem answer_opnd (v : Word32) : (s.answer v).opnd = s.opnd := rfl
@[simp] theorem answer_rdata (v : Word32) : (s.answer v).rdata = v := rfl
@[simp] theorem answer_status (v : Word32) : (s.answer v).status = statusWord Code.ok.byte true := rfl
@[simp] theorem answer_fault (v : Word32) : (s.answer v).fault = s.fault := rfl
@[simp] theorem answer_hostPc (v : Word32) : (s.answer v).hostPc = s.hostPc := rfl
@[simp] theorem answer_hostQueue (v : Word32) : (s.answer v).hostQueue = s.hostQueue := rfl
@[simp] theorem answer_hostData (v : Word32) : (s.answer v).hostData = s.hostData := rfl

@[simp] theorem setIbuf_config (b : List Byte) : (s.setIbuf b).config = s.config := rfl
@[simp] theorem setIbuf_ibuf (b : List Byte) : (s.setIbuf b).ibuf = b := rfl
@[simp] theorem setIbuf_obuf (b : List Byte) : (s.setIbuf b).obuf = s.obuf := rfl
@[simp] theorem setIbuf_msg (b : List Byte) : (s.setIbuf b).msg = s.msg := rfl
@[simp] theorem setIbuf_opnd (b : List Byte) : (s.setIbuf b).opnd = s.opnd := rfl
@[simp] theorem setIbuf_rdata (b : List Byte) : (s.setIbuf b).rdata = s.rdata := rfl
@[simp] theorem setIbuf_status (b : List Byte) : (s.setIbuf b).status = s.status := rfl
@[simp] theorem setIbuf_fault (b : List Byte) : (s.setIbuf b).fault = s.fault := rfl
@[simp] theorem setIbuf_hostPc (b : List Byte) : (s.setIbuf b).hostPc = s.hostPc := rfl
@[simp] theorem setIbuf_hostQueue (b : List Byte) : (s.setIbuf b).hostQueue = s.hostQueue := rfl
@[simp] theorem setIbuf_hostData (b : List Byte) : (s.setIbuf b).hostData = s.hostData := rfl

@[simp] theorem setObuf_config (b : List Byte) : (s.setObuf b).config = s.config := rfl
@[simp] theorem setObuf_ibuf (b : List Byte) : (s.setObuf b).ibuf = s.ibuf := rfl
@[simp] theorem setObuf_obuf (b : List Byte) : (s.setObuf b).obuf = b := rfl
@[simp] theorem setObuf_msg (b : List Byte) : (s.setObuf b).msg = s.msg := rfl
@[simp] theorem setObuf_opnd (b : List Byte) : (s.setObuf b).opnd = s.opnd := rfl
@[simp] theorem setObuf_rdata (b : List Byte) : (s.setObuf b).rdata = s.rdata := rfl
@[simp] theorem setObuf_status (b : List Byte) : (s.setObuf b).status = s.status := rfl
@[simp] theorem setObuf_fault (b : List Byte) : (s.setObuf b).fault = s.fault := rfl
@[simp] theorem setObuf_hostPc (b : List Byte) : (s.setObuf b).hostPc = s.hostPc := rfl
@[simp] theorem setObuf_hostQueue (b : List Byte) : (s.setObuf b).hostQueue = s.hostQueue := rfl
@[simp] theorem setObuf_hostData (b : List Byte) : (s.setObuf b).hostData = s.hostData := rfl

@[simp] theorem setMsg_config (m : Msg) : (s.setMsg m).config = s.config := rfl
@[simp] theorem setMsg_ibuf (m : Msg) : (s.setMsg m).ibuf = s.ibuf := rfl
@[simp] theorem setMsg_obuf (m : Msg) : (s.setMsg m).obuf = s.obuf := rfl
@[simp] theorem setMsg_msg (m : Msg) : (s.setMsg m).msg = m := rfl
@[simp] theorem setMsg_opnd (m : Msg) : (s.setMsg m).opnd = s.opnd := rfl
@[simp] theorem setMsg_rdata (m : Msg) : (s.setMsg m).rdata = s.rdata := rfl
@[simp] theorem setMsg_status (m : Msg) : (s.setMsg m).status = s.status := rfl
@[simp] theorem setMsg_fault (m : Msg) : (s.setMsg m).fault = s.fault := rfl
@[simp] theorem setMsg_hostPc (m : Msg) : (s.setMsg m).hostPc = s.hostPc := rfl
@[simp] theorem setMsg_hostQueue (m : Msg) : (s.setMsg m).hostQueue = s.hostQueue := rfl
@[simp] theorem setMsg_hostData (m : Msg) : (s.setMsg m).hostData = s.hostData := rfl

@[simp] theorem invalidateMsg_config : (s.invalidateMsg).config = s.config := rfl
@[simp] theorem invalidateMsg_ibuf : (s.invalidateMsg).ibuf = s.ibuf := rfl
@[simp] theorem invalidateMsg_obuf : (s.invalidateMsg).obuf = s.obuf := rfl
@[simp] theorem invalidateMsg_msg : (s.invalidateMsg).msg = { s.msg with valid := false } := rfl
@[simp] theorem invalidateMsg_opnd : (s.invalidateMsg).opnd = s.opnd := rfl
@[simp] theorem invalidateMsg_rdata : (s.invalidateMsg).rdata = s.rdata := rfl
@[simp] theorem invalidateMsg_status : (s.invalidateMsg).status = s.status := rfl
@[simp] theorem invalidateMsg_fault : (s.invalidateMsg).fault = s.fault := rfl
@[simp] theorem invalidateMsg_hostPc : (s.invalidateMsg).hostPc = s.hostPc := rfl
@[simp] theorem invalidateMsg_hostQueue : (s.invalidateMsg).hostQueue = s.hostQueue := rfl
@[simp] theorem invalidateMsg_hostData : (s.invalidateMsg).hostData = s.hostData := rfl

@[simp] theorem setOpnd_config (v : Word32) : (s.setOpnd v).config = s.config := rfl
@[simp] theorem setOpnd_ibuf (v : Word32) : (s.setOpnd v).ibuf = s.ibuf := rfl
@[simp] theorem setOpnd_obuf (v : Word32) : (s.setOpnd v).obuf = s.obuf := rfl
@[simp] theorem setOpnd_msg (v : Word32) : (s.setOpnd v).msg = s.msg := rfl
@[simp] theorem setOpnd_opnd (v : Word32) : (s.setOpnd v).opnd = v := rfl
@[simp] theorem setOpnd_rdata (v : Word32) : (s.setOpnd v).rdata = s.rdata := rfl
@[simp] theorem setOpnd_status (v : Word32) : (s.setOpnd v).status = s.status := rfl
@[simp] theorem setOpnd_fault (v : Word32) : (s.setOpnd v).fault = s.fault := rfl
@[simp] theorem setOpnd_hostPc (v : Word32) : (s.setOpnd v).hostPc = s.hostPc := rfl
@[simp] theorem setOpnd_hostQueue (v : Word32) : (s.setOpnd v).hostQueue = s.hostQueue := rfl
@[simp] theorem setOpnd_hostData (v : Word32) : (s.setOpnd v).hostData = s.hostData := rfl

@[simp] theorem setHostData_config (v : Word32) : (s.setHostData v).config = s.config := rfl
@[simp] theorem setHostData_ibuf (v : Word32) : (s.setHostData v).ibuf = s.ibuf := rfl
@[simp] theorem setHostData_obuf (v : Word32) : (s.setHostData v).obuf = s.obuf := rfl
@[simp] theorem setHostData_msg (v : Word32) : (s.setHostData v).msg = s.msg := rfl
@[simp] theorem setHostData_opnd (v : Word32) : (s.setHostData v).opnd = s.opnd := rfl
@[simp] theorem setHostData_rdata (v : Word32) : (s.setHostData v).rdata = s.rdata := rfl
@[simp] theorem setHostData_status (v : Word32) : (s.setHostData v).status = s.status := rfl
@[simp] theorem setHostData_fault (v : Word32) : (s.setHostData v).fault = s.fault := rfl
@[simp] theorem setHostData_hostPc (v : Word32) : (s.setHostData v).hostPc = s.hostPc := rfl
@[simp] theorem setHostData_hostQueue (v : Word32) : (s.setHostData v).hostQueue = s.hostQueue := rfl
@[simp] theorem setHostData_hostData (v : Word32) : (s.setHostData v).hostData = v := rfl

@[simp] theorem advanceHostPc_config : (s.advanceHostPc).config = s.config := rfl
@[simp] theorem advanceHostPc_ibuf : (s.advanceHostPc).ibuf = s.ibuf := rfl
@[simp] theorem advanceHostPc_obuf : (s.advanceHostPc).obuf = s.obuf := rfl
@[simp] theorem advanceHostPc_msg : (s.advanceHostPc).msg = s.msg := rfl
@[simp] theorem advanceHostPc_opnd : (s.advanceHostPc).opnd = s.opnd := rfl
@[simp] theorem advanceHostPc_rdata : (s.advanceHostPc).rdata = s.rdata := rfl
@[simp] theorem advanceHostPc_status : (s.advanceHostPc).status = s.status := rfl
@[simp] theorem advanceHostPc_fault : (s.advanceHostPc).fault = s.fault := rfl
@[simp] theorem advanceHostPc_hostPc : (s.advanceHostPc).hostPc = s.hostPc + 1 := rfl
@[simp] theorem advanceHostPc_hostQueue : (s.advanceHostPc).hostQueue = s.hostQueue := rfl
@[simp] theorem advanceHostPc_hostData : (s.advanceHostPc).hostData = s.hostData := rfl

@[simp] theorem raise_config (c : Cause) (w : Word16) : (s.raise c w).config = s.config := rfl
@[simp] theorem raise_ibuf (c : Cause) (w : Word16) : (s.raise c w).ibuf = s.ibuf := rfl
@[simp] theorem raise_obuf (c : Cause) (w : Word16) : (s.raise c w).obuf = s.obuf := rfl
@[simp] theorem raise_msg (c : Cause) (w : Word16) : (s.raise c w).msg = s.msg := rfl
@[simp] theorem raise_opnd (c : Cause) (w : Word16) : (s.raise c w).opnd = s.opnd := rfl
@[simp] theorem raise_rdata (c : Cause) (w : Word16) : (s.raise c w).rdata = s.rdata := rfl
@[simp] theorem raise_status (c : Cause) (w : Word16) : (s.raise c w).status = statusWord c.byte false := rfl
@[simp] theorem raise_fault (c : Cause) (w : Word16) : (s.raise c w).fault = faultWord c.byte w := rfl
@[simp] theorem raise_hostPc (c : Cause) (w : Word16) : (s.raise c w).hostPc = s.hostPc := rfl
@[simp] theorem raise_hostQueue (c : Cause) (w : Word16) : (s.raise c w).hostQueue = s.hostQueue := rfl
@[simp] theorem raise_hostData (c : Cause) (w : Word16) : (s.raise c w).hostData = s.hostData := rfl

@[simp] theorem hostReset_config : (s.hostReset).config = s.config := rfl
@[simp] theorem hostReset_ibuf : (s.hostReset).ibuf = [] := rfl
@[simp] theorem hostReset_obuf : (s.hostReset).obuf = [] := rfl
@[simp] theorem hostReset_msg : (s.hostReset).msg = Msg.afterReset := rfl
@[simp] theorem hostReset_opnd : (s.hostReset).opnd = 0 := rfl
@[simp] theorem hostReset_rdata : (s.hostReset).rdata = 0 := rfl
@[simp] theorem hostReset_status : (s.hostReset).status = 0 := rfl
@[simp] theorem hostReset_fault : (s.hostReset).fault = 0 := rfl
@[simp] theorem hostReset_hostPc : (s.hostReset).hostPc = 0 := rfl
@[simp] theorem hostReset_hostQueue : (s.hostReset).hostQueue = s.hostQueue := rfl
@[simp] theorem hostReset_hostData : (s.hostReset).hostData = s.hostData := rfl

end Sys2Proof.Machine.State
end

