-- ==== Sys2Proof/Laws/Words.lean ====
section
/-! SUPPORT. The fields of STATUS and FAULT words, and of the byte operand. -/

namespace Sys2Proof.Laws

open Sys2Proof.Machine

@[simp] theorem statusCode_statusWord (c : Byte) (r : Bool) : statusCode (statusWord c r) = c := by
  apply BitVec.eq_of_getLsbD_eq
  intro i hi
  simp only [statusCode, statusWord, BitVec.getLsbD_extractLsb', BitVec.getLsbD_append]
  simp [hi]

@[simp] theorem statusRdv_statusWord (c : Byte) (r : Bool) : statusRdv (statusWord c r) = r := by
  simp only [statusRdv, statusWord, BitVec.getLsbD_append]
  simp

@[simp] theorem statusReserved_statusWord (c : Byte) (r : Bool) : statusReserved (statusWord c r) = 0 := by
  apply BitVec.eq_of_getLsbD_eq
  intro i hi
  have h8 : ¬ 9 + i < 8 := by omega
  have h1 : ¬ 9 + i - 8 < 1 := by omega
  simp only [statusReserved, statusWord, BitVec.getLsbD_extractLsb', BitVec.getLsbD_append]
  simp [h8, h1]

@[simp] theorem faultF_faultWord (c : Byte) (w : Word16) : faultF (faultWord c w) = true := by
  simp only [faultF, faultWord, BitVec.getLsbD_append]
  simp

@[simp] theorem faultReserved_faultWord (c : Byte) (w : Word16) : faultReserved (faultWord c w) = 0 := by
  apply BitVec.eq_of_getLsbD_eq
  intro i hi
  have h7 : 1 + i - 1 < 7 := by omega
  have h1 : ¬ 1 + i < 1 := by omega
  simp only [faultReserved, faultWord, BitVec.getLsbD_extractLsb', BitVec.getLsbD_append, h1, h7, if_true, if_false]
  simp

@[simp] theorem faultCause_faultWord (c : Byte) (w : Word16) : faultCause (faultWord c w) = c := by
  apply BitVec.eq_of_getLsbD_eq
  intro i hi
  have h1 : ¬ 8 + i < 1 := by omega
  have h7 : ¬ 8 + i - 1 < 7 := by omega
  have e : 8 + i - 1 - 7 = i := by omega
  simp only [faultCause, faultWord, BitVec.getLsbD_extractLsb', BitVec.getLsbD_append, h1, h7, e, if_false]
  simp [hi]

@[simp] theorem faultFcw_faultWord (c : Byte) (w : Word16) : faultFcw (faultWord c w) = w := by
  apply BitVec.eq_of_getLsbD_eq
  intro i hi
  have h1 : ¬ 16 + i < 1 := by omega
  have h7 : ¬ 16 + i - 1 < 7 := by omega
  have h8 : ¬ 16 + i - 1 - 7 < 8 := by omega
  have e : 16 + i - 1 - 7 - 8 = i := by omega
  simp only [faultFcw, faultWord, BitVec.getLsbD_extractLsb', BitVec.getLsbD_append, h1, h7, h8, e, if_false]
  simp [hi]

@[simp] theorem faultF_zero : faultF 0#32 = false := by decide

/-- The byte form accepts exactly the operands below 256, and gives their value (R55). -/
theorem byteOperand_eq_some {v : Word32} (h : v.toNat < 256) : byteOperand v = some (BitVec.ofNat 8 v.toNat) := by
  have h0 : v.extractLsb' 8 24 = 0 := by
    apply BitVec.eq_of_toNat_eq
    simp [BitVec.extractLsb'_toNat, Nat.shiftRight_eq_div_pow]
    omega
  have h1 : v.extractLsb' 0 8 = BitVec.ofNat 8 v.toNat := by
    apply BitVec.eq_of_toNat_eq
    simp [BitVec.extractLsb'_toNat]
  simp only [byteOperand, h0, h1, if_true]

/-- An operand of 256 or more is out of the byte form's range (R55). -/
theorem byteOperand_eq_none {v : Word32} (h : 256 ≤ v.toNat) : byteOperand v = none := by
  have h0 : v.extractLsb' 8 24 ≠ 0 := by
    intro e
    have := congrArg BitVec.toNat e
    simp [BitVec.extractLsb'_toNat, Nat.shiftRight_eq_div_pow] at this
    have := v.isLt
    omega
  simp only [byteOperand, h0, if_false]

end Sys2Proof.Laws
end

