-- ==== Sys2Proof/Laws/Outcomes.lean ====
section
/-! SUPPORT. What each shared operation can do, said once: the provers cite these instead of unfolding the operation. -/

namespace Sys2Proof.Laws

open Sys2Proof.Machine

/-- A raise goes on to the faulted state (R100). -/
theorem raiseIn_next {i : Instr} {c : Cause} {s t : State} (h : raiseIn i c s = .next t) :
    t = s.raise c (encode i) := by
  cases h; rfl

@[simp] theorem raise_faulted (s : State) (c : Cause) (w : Word16) : (s.raise c w).faulted = true := by
  simp [State.faulted]

@[simp] theorem advanceHostPc_faulted (s : State) : s.advanceHostPc.faulted = s.faulted := rfl

theorem decodeIncomplete_next {s t : State} (h : decodeIncomplete s = .next t) :
    t = s.invalidateMsg.finish .incomplete := by
  cases h; rfl

/-- What the frame taken leaves in each field it writes (R69, R70). -/
theorem takeFrame_next {hd : Header} {b : Nat} {s t : State} (h : takeFrame hd b s = .next t) :
    t = { s with
      msg := hd.toMsg (slice s.ibuf HDR b) (slice s.ibuf b (b + hd.signatureLength.toNat)),
      ibuf := s.ibuf.drop (HDR + (b - HDR) + hd.signatureLength.toNat),
      status := statusWord Code.ok.byte false } := by
  cases h; rfl

/-- The LEGACY router raises, or takes the frame at the boundary it computes (R65, R66, R68). -/
theorem decodeLegacy_next {hd : Header} {s t : State} (h : decodeLegacy hd s = .next t) :
    (s.ibuf.length < HDR + hd.signatureLength.toNat ∧ t = s.raise .sigUnderflow (encode .decode)) ∨
    (HDR + hd.signatureLength.toNat ≤ s.ibuf.length ∧
      (s.config.msgDataCap < s.ibuf.length - hd.signatureLength.toNat - HDR ∨
        s.config.msgSigCap < hd.signatureLength.toNat) ∧ t = s.raise .capacity (encode .decode)) ∨
    (HDR + hd.signatureLength.toNat ≤ s.ibuf.length ∧
      s.ibuf.length - hd.signatureLength.toNat - HDR ≤ s.config.msgDataCap ∧
      hd.signatureLength.toNat ≤ s.config.msgSigCap ∧
      takeFrame hd (s.ibuf.length - hd.signatureLength.toNat) s = .next t) := by
  unfold decodeLegacy at h
  dsimp only at h
  split at h
  · exact .inl ⟨‹_›, raiseIn_next h⟩
  · split at h
    · exact .inr (.inl ⟨by omega, ‹_›, raiseIn_next h⟩)
    · exact .inr (.inr ⟨by omega, by omega, by omega, h⟩)

/-- The STRICT router raises, waits, or takes the declared frame (R67, R68). -/
theorem decodeStrict_next {hd : Header} {s t : State} (h : decodeStrict hd s = .next t) :
    ((s.config.msgDataCap < hd.payloadLength.toNat ∨ s.config.msgSigCap < hd.signatureLength.toNat ∨
        s.config.ibufCap < HDR + hd.payloadLength.toNat + hd.signatureLength.toNat) ∧
      t = s.raise .capacity (encode .decode)) ∨
    (s.ibuf.length < HDR + hd.payloadLength.toNat + hd.signatureLength.toNat ∧
      t = s.invalidateMsg.finish .incomplete) ∨
    (HDR + hd.payloadLength.toNat + hd.signatureLength.toNat ≤ s.ibuf.length ∧
      hd.payloadLength.toNat ≤ s.config.msgDataCap ∧ hd.signatureLength.toNat ≤ s.config.msgSigCap ∧
      takeFrame hd (HDR + hd.payloadLength.toNat) s = .next t) := by
  unfold decodeStrict at h
  dsimp only at h
  split at h
  · exact .inl ⟨‹_›, raiseIn_next h⟩
  · split at h
    · exact .inr (.inl ⟨‹_›, decodeIncomplete_next h⟩)
    · exact .inr (.inr ⟨by omega, by omega, by omega, h⟩)

/-- A byte push raises, in the order of R105, or puts the byte (R93, R94). -/
theorem pushMsgByte_next {i : Instr} {len cap : Nat} {put : Byte → Msg} {s t : State}
    (h : pushMsgByte i len cap put s = .next t) :
    (s.msg.valid = false ∧ t = s.raise .msgInvalid (encode i)) ∨
    (s.msg.valid = true ∧ byteOperand s.opnd = none ∧ t = s.raise .operandRange (encode i)) ∨
    (s.msg.valid = true ∧ len = cap ∧ t = s.raise .capacity (encode i)) ∨
    (s.msg.valid = true ∧ len ≠ cap ∧ ∃ b, byteOperand s.opnd = some b ∧ t = (s.setMsg (put b)).finish .ok) := by
  unfold pushMsgByte at h
  split at h
  · exact .inl ⟨‹_›, raiseIn_next h⟩
  · have hv : s.msg.valid = true := by simpa using ‹¬ s.msg.valid = false›
    split at h
    · exact .inr (.inl ⟨hv, ‹_›, raiseIn_next h⟩)
    · split at h
      · exact .inr (.inr (.inl ⟨hv, ‹_›, raiseIn_next h⟩))
      · cases h
        exact .inr (.inr (.inr ⟨hv, ‹_›, _, ‹_›, rfl⟩))

/-- A byte read raises, or answers the byte at the index (R95, R96). -/
theorem readMsgByte_next {i : Instr} {field : List Byte} {s t : State} (h : readMsgByte i field s = .next t) :
    (s.msg.valid = false ∧ t = s.raise .msgInvalid (encode i)) ∨
    (s.msg.valid = true ∧ field[indexOperand s.opnd]? = none ∧ t = s.raise .indexRange (encode i)) ∨
    (s.msg.valid = true ∧ ∃ b, field[indexOperand s.opnd]? = some b ∧ t = s.answer (b.setWidth 32)) := by
  unfold readMsgByte at h
  split at h
  · exact .inl ⟨‹_›, raiseIn_next h⟩
  · have hv : s.msg.valid = true := by simpa using ‹¬ s.msg.valid = false›
    split at h
    · exact .inr (.inl ⟨hv, ‹_›, raiseIn_next h⟩)
    · cases h
      exact .inr (.inr ⟨hv, _, ‹_›, rfl⟩)

/-- A CW write finds a faulted instance, an illegal word, or a command (R56). -/
theorem issueCommand_next {w : Word16} {s t : State} (h : issueCommand w s = .next t) :
    (s.faulted = true ∧ t = s.advanceHostPc) ∨
    (s.faulted = false ∧ (∃ e, decode w = .error e) ∧ t = s.advanceHostPc.raise .illegalCommand w) ∨
    (s.faulted = false ∧ ∃ i, decode w = .ok i ∧ exec i s.advanceHostPc = .next t) := by
  unfold issueCommand at h
  dsimp only at h
  split at h
  · cases h; exact .inl ⟨by simpa using ‹s.advanceHostPc.faulted = true›, rfl⟩
  · have hf : s.faulted = false := by simpa using ‹¬ s.advanceHostPc.faulted = true›
    split at h
    · cases h; exact .inr (.inl ⟨hf, ⟨_, ‹_›⟩, rfl⟩)
    · exact .inr (.inr ⟨hf, _, ‹_›, h⟩)

/-- A register read changes the host's data alone (R30, R42). -/
theorem hostRead_next {r : HostReg} {s t : State} (h : hostRead r s = .next t) : ∃ v, t = s.setHostData v := by
  cases r with
  | cw => cases h
  | rdata =>
    simp only [hostRead] at h
    split at h
    · cases h; exact ⟨_, rfl⟩
    · cases h
  | opnd => cases h; exact ⟨_, rfl⟩
  | status => cases h; exact ⟨_, rfl⟩
  | fault => cases h; exact ⟨_, rfl⟩

/-- SETOP RDATA writes OPND and the host's data with RDATA's value. -/
theorem hostCopyRdata_next {s t : State} (h : hostCopyRdata s = .next t) :
    ∃ v, s.rdata? = some v ∧ t = (s.setHostData v).setOpnd v := by
  unfold hostCopyRdata at h
  split at h
  · cases h; exact ⟨_, ‹_›, rfl⟩
  · cases h

/-- A step idles, or performs the host's next action on the state without it. -/
theorem step_next {s t : State} (h : step s = .next t) :
    (s.hostQueue = [] ∧ t = s) ∨
    (∃ a rest, s.hostQueue = a :: rest ∧ runAction a { s with hostQueue := rest } = .next t) := by
  unfold step nextAction? at h
  split at h
  · cases h
    refine .inl ⟨?_, rfl⟩
    revert ‹_ = none›
    cases s.hostQueue <;> simp
  · rename_i a s' e
    revert e
    cases hq : s.hostQueue with
    | nil => simp
    | cons b rest =>
      intro e
      cases e
      exact .inr ⟨_, _, rfl, h⟩

end Sys2Proof.Laws
end

