-- ==== Sys2Proof/Laws/Memory.lean ====
section
/-! SUPPORT. The operations on the byte spaces keep them within their capacities (spec 10_state R19 to R21). FHC has no
addressed memory (20_memory R33): Memory.wf is the form its byte spaces keep. -/

namespace Sys2Proof.Laws

open Sys2Proof.Machine

theorem resetWith_wf (c : Config) : Memory.wf (State.resetWith c) := by
  simp [Memory.wf, State.resetWith, Msg.afterReset]

theorem hostReset_wf (s : State) : Memory.wf s.hostReset := resetWith_wf s.config

/-- An IBUF within its capacity keeps the form. -/
theorem setIbuf_wf {s : State} {b : List Byte} (h : Memory.wf s) (hb : b.length ≤ s.config.ibufCap) :
    Memory.wf (s.setIbuf b) :=
  ⟨hb, h.2⟩

/-- An OBUF within its capacity keeps the form. -/
theorem setObuf_wf {s : State} {b : List Byte} (h : Memory.wf s) (hb : b.length ≤ s.config.obufCap) :
    Memory.wf (s.setObuf b) :=
  ⟨h.1, hb, h.2.2⟩

/-- A Message whose byte fields fit keeps the form. -/
theorem setMsg_wf {s : State} {m : Msg} (h : Memory.wf s) (hd : m.data.length ≤ s.config.msgDataCap)
    (hs : m.signature.length ≤ s.config.msgSigCap) : Memory.wf (s.setMsg m) :=
  ⟨h.1, h.2.1, hd, hs⟩

theorem invalidateMsg_wf {s : State} (h : Memory.wf s) : Memory.wf s.invalidateMsg := h

theorem raise_wf {s : State} (c : Cause) (w : Word16) (h : Memory.wf s) : Memory.wf (s.raise c w) := h

/-- Taking a frame that fits keeps the form: IBUF only shrinks and both byte fields are within their capacities. -/
theorem takeFrame_wf {hd : Header} {b : Nat} {s t : State} (h : Memory.wf s) (ht : takeFrame hd b s = .next t)
    (hb : b + hd.signatureLength.toNat ≤ s.ibuf.length) (hd1 : b - HDR ≤ s.config.msgDataCap)
    (hs : hd.signatureLength.toNat ≤ s.config.msgSigCap) : Memory.wf t := by
  have e := takeFrame_next ht
  subst e
  refine ⟨?_, h.2.1, ?_, ?_⟩
  · have := h.1
    simp only [List.length_drop]; omega
  · simp only [Header.toMsg]; rw [slice_length (by omega)]; exact hd1
  · simp only [Header.toMsg]; rw [slice_length hb]; omega

end Sys2Proof.Laws
end

