-- ==== Sys2Proof/Laws/PerInstr.lean ====
section
/-! SUPPORT. Facts stated for every command as syntax, one lemma per constructor. -/

namespace Sys2Proof.Laws

/-- The command's word lies in a row of opcode_table.json: its bits under the row's mask are the row's match value. -/
def TableRow.Statement (i : Instr) : Prop :=
  i.wellFormed = true → (opcodeRows.filter fun r => r.covers (encode i)).length = 1

namespace TableRow

theorem decode : Statement .decode := fun _ => by decide
theorem encode : Statement .encode := fun _ => by decide
theorem inPush : Statement .inPush := fun _ => by decide
theorem inLen : Statement .inLen := fun _ => by decide
theorem outPop : Statement .outPop := fun _ => by decide
theorem outLen : Statement .outLen := fun _ => by decide
theorem msgNew : Statement .msgNew := fun _ => by decide
theorem msgWr (field : Selector) : Statement (.msgWr field) := fun _ => by cases field <;> decide
theorem msgRd (field : Selector) : Statement (.msgRd field) := fun _ => by cases field <;> decide
theorem msgPushData : Statement .msgPushData := fun _ => by decide
theorem msgPushSig : Statement .msgPushSig := fun _ => by decide
theorem msgRdData : Statement .msgRdData := fun _ => by decide
theorem msgRdSig : Statement .msgRdSig := fun _ => by decide

end TableRow

end Sys2Proof.Laws
end

