-- ==== Sys2Proof/Laws/Runs.lean ====
section
/-! SUPPORT. Runs and safe runs, one step at a time (spec 60_exceptions R102). -/

namespace Sys2Proof.Laws

open Sys2Proof.Machine

@[simp] theorem run_zero (s : State) : Host.Core.run Sys2Proof.core 0 s = .next s := rfl

/-- A run goes on from the state its first step answers. -/
theorem run_succ {s t : State} (h : step s = .next t) (k : Nat) :
    Host.Core.run Sys2Proof.core (k + 1) s = Host.Core.run Sys2Proof.core k t := by
  simp only [Host.Core.run]
  rw [show Sys2Proof.core.step s = .next t from h]

/-- A run that answers a state took its first step. -/
theorem run_succ_next {k : Nat} {s u : State} (h : Host.Core.run Sys2Proof.core (k + 1) s = .next u) :
    ∃ t, step s = .next t ∧ Host.Core.run Sys2Proof.core k t = .next u := by
  cases hs : step s with
  | next t => exact ⟨t, rfl, by rw [← run_succ hs]; exact h⟩
  | fault r =>
    simp only [Host.Core.run] at h
    rw [show Sys2Proof.core.step s = .fault r from hs] at h
    cases h
  | refused r =>
    simp only [Host.Core.run] at h
    rw [show Sys2Proof.core.step s = .refused r from hs] at h
    cases h

@[simp] theorem safeRun_zero (s : State) : SafeRun 0 s ↔ Final s := Iff.rfl

@[simp] theorem safeRun_succ (k : Nat) (s : State) :
    SafeRun (k + 1) s ↔ s.faulted = false ∧ ∃ t, step s = .next t ∧ SafeRun k t := Iff.rfl

/-- A safe run starts in a state that is not faulted, however long it is. -/
theorem not_faulted_of_safeRun {k : Nat} {s : State} (h : SafeRun k s) : s.faulted = false := by
  cases k with
  | zero => exact h.2
  | succ k => exact h.1

end Sys2Proof.Laws
end

