-- ==== Sys2Proof/Tests/Slice0.lean ====
section
/-! SUPPORT. The model's own tests. Expected values are the spec's: its opcode map (30_encoding), its vectors V-* and examples
(95_test_vectors). The last part shows, for every statement with hypotheses, a state and operands that meet them. -/

namespace Sys2Proof.Tests

open Sys2Proof Sys2Proof.Machine Sys2Proof.Spec

/-! ### Helpers -/

/-- The next state of an outcome, if it has one. -/
def after : Outcome → Option State
  | .next t => some t
  | .fault _ => none
  | .refused _ => none

/-- The state after a command. -/
def run1 (i : Instr) (s : State) : Option State := after (exec i s)

/-- The instance right after reset in a framing mode, with room for 40 buffered bytes and 20 bytes in each byte field. -/
def start (m : FramingMode) : State := State.resetWith ⟨m, 40, 40, 20, 20⟩

/-- The frame F8 of 95_test_vectors. -/
def f8 : List Byte := [3, 0, 0, 0, 5, 0x0C, 0, 9, 0, 0x0B, 0, 0, 0, 0x0A, 0, 3, 3, 3, 3, 2, 2, 2]

/-- F8 with payload_length 4. -/
def f8true : List Byte := [3, 0, 0, 0, 5, 0x0C, 0, 9, 0, 4, 0, 0, 0, 0x0A, 0, 3, 3, 3, 3, 2, 2, 2]

/-- The message M8 of 95_test_vectors. -/
def m8 : Msg := ⟨true, 3, 5, 12, 9, 11, 10, [3, 3, 3, 3], [2, 2, 2]⟩

/-- M8 with a true payload_length. -/
def m8true : Msg := { m8 with payloadLength := 4 }

/-- The header of M8. -/
def h8 : Header := ⟨3, 5, 12, 9, 11, 10⟩

/-- A state with bytes in IBUF. -/
def withIn (m : FramingMode) (b : List Byte) : State := { start m with ibuf := b }

/-- A state with a Message in MSG and an operand. -/
def withMsg (m : Msg) (v : Word32) : State := { start .legacy with msg := m, opnd := v }

/-- A state whose host is about to act. -/
def acting (q : List HostAction) : State := { start .legacy with hostQueue := q }

/-- A faulted state: ILLEGAL_COMMAND by the word 0x0000 (V-C1). -/
def stopped (q : List HostAction) : State := { acting q with fault := 0x00008001, status := 0x0080 }

/-! ### WellFormed: the ill-formed commands are refused -/

theorem test_wellformed_refuses_write_of_data_length : (Instr.msgWr .dataLen).wellFormed = false := by decide
theorem test_wellformed_refuses_write_of_signature_length : (Instr.msgWr .sigLen).wellFormed = false := by decide
theorem test_wellformed_accepts_read_of_data_length : (Instr.msgRd .dataLen).wellFormed = true := by decide

/-! ### Decoding: RSV, SEL and OPC written out bit by bit from the opcode map (R54, R57, R58) -/

theorem test_decode_decode : decode (0b0000#4 ++ 0b0000#4 ++ 0b00000001#8) = .ok .decode := by decide
theorem test_decode_encode : decode (0b0000#4 ++ 0b0000#4 ++ 0b00000010#8) = .ok .encode := by decide
theorem test_decode_inPush : decode (0b0000#4 ++ 0b0000#4 ++ 0b00010000#8) = .ok .inPush := by decide
theorem test_decode_inLen : decode (0b0000#4 ++ 0b0000#4 ++ 0b00010001#8) = .ok .inLen := by decide
theorem test_decode_outPop : decode (0b0000#4 ++ 0b0000#4 ++ 0b00010010#8) = .ok .outPop := by decide
theorem test_decode_outLen : decode (0b0000#4 ++ 0b0000#4 ++ 0b00010011#8) = .ok .outLen := by decide
theorem test_decode_msgNew : decode (0b0000#4 ++ 0b0000#4 ++ 0b00100000#8) = .ok .msgNew := by decide
theorem test_decode_msgWr :
    decode (0b0000#4 ++ 0b0000#4 ++ 0b00100001#8) = .ok (.msgWr .signatureLength) ∧
    decode (0b0000#4 ++ 0b0001#4 ++ 0b00100001#8) = .ok (.msgWr .version) ∧
    decode (0b0000#4 ++ 0b0010#4 ++ 0b00100001#8) = .ok (.msgWr .messageType) ∧
    decode (0b0000#4 ++ 0b0011#4 ++ 0b00100001#8) = .ok (.msgWr .serviceId) ∧
    decode (0b0000#4 ++ 0b0100#4 ++ 0b00100001#8) = .ok (.msgWr .payloadLength) ∧
    decode (0b0000#4 ++ 0b0101#4 ++ 0b00100001#8) = .ok (.msgWr .encrypted) := by decide
theorem test_decode_msgRd :
    decode (0b0000#4 ++ 0b0000#4 ++ 0b00100010#8) = .ok (.msgRd .signatureLength) ∧
    decode (0b0000#4 ++ 0b0001#4 ++ 0b00100010#8) = .ok (.msgRd .version) ∧
    decode (0b0000#4 ++ 0b0010#4 ++ 0b00100010#8) = .ok (.msgRd .messageType) ∧
    decode (0b0000#4 ++ 0b0011#4 ++ 0b00100010#8) = .ok (.msgRd .serviceId) ∧
    decode (0b0000#4 ++ 0b0100#4 ++ 0b00100010#8) = .ok (.msgRd .payloadLength) ∧
    decode (0b0000#4 ++ 0b0101#4 ++ 0b00100010#8) = .ok (.msgRd .encrypted) ∧
    decode (0b0000#4 ++ 0b0110#4 ++ 0b00100010#8) = .ok (.msgRd .dataLen) ∧
    decode (0b0000#4 ++ 0b0111#4 ++ 0b00100010#8) = .ok (.msgRd .sigLen) := by decide
theorem test_decode_msgPushData : decode (0b0000#4 ++ 0b0000#4 ++ 0b00100011#8) = .ok .msgPushData := by decide
theorem test_decode_msgPushSig : decode (0b0000#4 ++ 0b0000#4 ++ 0b00100100#8) = .ok .msgPushSig := by decide
theorem test_decode_msgRdData : decode (0b0000#4 ++ 0b0000#4 ++ 0b00100101#8) = .ok .msgRdData := by decide
theorem test_decode_msgRdSig : decode (0b0000#4 ++ 0b0000#4 ++ 0b00100110#8) = .ok .msgRdSig := by decide

/-- V-C1 to V-C6 and V-M5, V-M6: each illegal word is refused by the test of R56 that catches it. -/
theorem test_decode_illegal_words :
    decode 0x0000 = .error .unassignedOpcode ∧ decode 0x1001 = .error .reservedBits ∧
    decode 0x0101 = .error .selectorNotTaken ∧ decode 0x0003 = .error .unassignedOpcode ∧
    decode 0x00FF = .error .unassignedOpcode ∧ decode 0x0F22 = .error .selectorOutOfRange ∧
    decode 0x0621 = .error .selectorOutOfRange ∧ decode 0x0822 = .error .selectorOutOfRange := by decide

/-- The rows of opcode_table.json through the host's entry point; a word of a MSG_WR row may carry SEL 6, which is illegal. -/
theorem test_table_words : decodeTableWord 16 0x0001 = some .decode ∧ decodeTableWord 16 0x0321 = some (.msgWr .serviceId) ∧
    decodeTableWord 16 0x0621 = none := by decide

/-- A table word is the very next command, on the state right after reset. -/
theorem test_fetch_word_runs_next : (after (step (State.reset.withFetchWord 16 0x0020))).map (·.msg) = some Msg.fresh := by
  decide

/-! ### One command each (vectors of 95_test_vectors) -/

/-- V-D2. -/
theorem test_decode_legacy_f8 : run1 .decode (withIn .legacy f8) = some { start .legacy with msg := m8 } := by decide
/-- V-D8. -/
theorem test_decode_strict_leaves_the_rest : run1 .decode (withIn .strict (f8true ++ [0xAA, 0xBB, 0xCC])) =
    some { start .strict with msg := m8true, ibuf := [0xAA, 0xBB, 0xCC] } := by decide
/-- V-E4. -/
theorem test_encode_appends : run1 .encode { withMsg m8 0 with obuf := [0xEE] } =
    some { withMsg { m8 with valid := false } 0 with obuf := 0xEE :: f8 } := by decide
/-- V-E10: the validation comes before the capacity. -/
theorem test_encode_validation_before_capacity :
    run1 .encode { withMsg { m8 with signatureLength := 2 } 0 with config := ⟨.legacy, 40, 20, 20, 20⟩ } =
      some { withMsg { m8 with signatureLength := 2, valid := false } 0 with
        config := ⟨.legacy, 40, 20, 20, 20⟩, status := 0x0002 } := by decide
/-- V-B1. -/
theorem test_inPush_byte : (run1 .inPush { start .legacy with opnd := 0x41 }).map (fun t => (t.ibuf, t.status)) =
    some ([0x41], 0x0000) := by decide
/-- V-B2. -/
theorem test_inPush_range : (run1 .inPush { start .legacy with opnd := 0x100 }).map (fun t => (t.ibuf, t.status, t.fault)) =
    some ([], 0x0084, 0x00108401) := by decide
/-- V-B4. -/
theorem test_inLen_14 : (run1 .inLen (withIn .legacy (List.replicate 14 0))).map (fun t => (t.rdata, t.status)) =
    some (14, 0x0100) := by decide
/-- V-B6. -/
theorem test_outPop_oldest : (run1 .outPop { start .legacy with obuf := [3, 0] }).map (fun t => (t.rdata, t.obuf, t.status)) =
    some (3, [0], 0x0100) := by decide
/-- V-B5. -/
theorem test_outPop_empty : (run1 .outPop (start .legacy)).map (fun t => (t.rdata?, t.status, t.fault)) =
    some (none, 0x0003, 0) := by decide
/-- V-B7. -/
theorem test_outLen_2 : (run1 .outLen { start .legacy with obuf := [3, 0] }).map (fun t => (t.rdata, t.status)) =
    some (2, 0x0100) := by decide
/-- R90: every field is zero, also over an earlier Message. -/
theorem test_msgNew_overwrites : (run1 .msgNew (withMsg m8 7)).map (·.msg) = some ⟨true, 0, 0, 0, 0, 0, 0, [], []⟩ := by decide
/-- V-M2. -/
theorem test_msgWr_range : (run1 (.msgWr .version) (withMsg Msg.fresh 0x100)).map (fun t => (t.msg, t.status, t.fault)) =
    some (Msg.fresh, 0x0084, 0x01218401) := by decide
/-- P1 step 5. -/
theorem test_msgWr_serviceId : (run1 (.msgWr .serviceId) (withMsg Msg.fresh 9)).map (·.msg) =
    some { Msg.fresh with serviceId := 9 } := by decide
/-- V-M7 and V-M14. -/
theorem test_msgRd_lengths : (run1 (.msgRd .dataLen) (withMsg m8 0)).map (·.rdata) = some 4 ∧
    (run1 (.msgRd .payloadLength) (withMsg m8 0)).map (·.rdata) = some 11 := by decide
/-- V-M1: MSG_RD after reset raises too. -/
theorem test_msgRd_invalid : (run1 (.msgRd .signatureLength) (start .legacy)).map (fun t => (t.status, t.fault)) =
    some (0x0081, 0x00228101) := by decide
/-- V-M11. -/
theorem test_msgPushData_capacity :
    (run1 .msgPushData { withMsg Msg.fresh 1 with config := ⟨.legacy, 40, 40, 0, 20⟩ }).map (·.fault) =
      some 0x00238301 := by decide
/-- R93's example. -/
theorem test_msgPushData_appends : (run1 .msgPushData (withMsg { Msg.fresh with data := [3, 3] } 3)).map (·.msg.data) =
    some [3, 3, 3] := by decide
/-- V-M12. -/
theorem test_msgPushSig_range : (run1 .msgPushSig (withMsg Msg.fresh 0x1FF)).map (·.fault) = some 0x00248401 := by decide
/-- R94's example. -/
theorem test_msgPushSig_appends : (run1 .msgPushSig (withMsg Msg.fresh 2)).map (fun t => (t.msg.signature, t.msg.signatureLength)) =
    some ([2], 0) := by decide
/-- V-M8. -/
theorem test_msgRdData_last : (run1 .msgRdData (withMsg m8 3)).map (fun t => (t.rdata, t.status)) = some (3, 0x0100) := by decide
/-- V-M9. -/
theorem test_msgRdData_range : (run1 .msgRdData (withMsg m8 4)).map (fun t => (t.status, t.fault)) =
    some (0x0085, 0x00258501) := by decide
/-- V-M10. -/
theorem test_msgRdSig_last : (run1 .msgRdSig (withMsg m8 2)).map (fun t => (t.rdata, t.status)) = some (2, 0x0100) := by decide
/-- The index just past the signature. -/
theorem test_msgRdSig_range : (run1 .msgRdSig (withMsg m8 3)).map (·.fault) = some 0x00268501 := by decide

/-! ### The host -/

/-- V-C2. -/
theorem test_illegal_word_raises : (after (step (acting [.writeCw 0x1001]))).map (fun t => (t.status, t.fault)) =
    some (0x0080, 0x10018001) := by decide
/-- V-C8: a command does nothing while faulted. -/
theorem test_quiescent : (after (step (stopped [.writeCw 0x0020]))).map (fun t => (t.msg.valid, t.status, t.fault)) =
    some (false, 0x0080, 0x00008001) := by decide
/-- V-C9: reset clears the fault. -/
theorem test_reset_clears : (after (step (stopped [.reset]))).map (fun t => (t.status, t.fault)) = some (0, 0) := by decide
/-- P3: SETOP RDATA copies the byte popped. -/
theorem test_copy_rdata :
    (after (step { acting [.copyRdata] with rdata := 3, status := 0x0100 })).map (fun t => (t.opnd, t.rdata)) =
      some (3, 3) := by decide

/-- R102: a run that reaches a fault is no safe run, though reset clears the fault and the last state is final. -/
theorem test_reset_does_not_make_a_faulted_run_safe :
    (after (step (acting [.writeCw 0x0000, .reset]))).map (·.faulted) = some true ∧
    ((after (step (acting [.writeCw 0x0000, .reset]))).bind (fun t => after (step t))).map (fun t => decide (Final t)) =
      some true ∧
    ¬ SafeRun 2 (acting [.writeCw 0x0000, .reset]) := by
  refine ⟨by decide, by decide, ?_⟩
  rintro ⟨_, t, ht, hf, _⟩
  have h : (after (step (acting [.writeCw 0x0000, .reset]))).map (·.faulted) = some true := by decide
  rw [ht] at h
  simp [after, hf] at h

/-! ### The text of host programs (R60) -/

theorem test_parse_setop : parseLine? "SETOP 0x1F" = some (.setop 0x1F) := by decide
theorem test_parse_wr : parseLine? "WR sl, 3" = some (.wr .signatureLength 3) := by decide
theorem test_parse_pushb : parseLine? "PUSHB 1 0xff 3" = some (.pushb [1, 0xFF, 3]) := by decide
theorem test_parse_rejects : parseLine? "MSG_WR dlen" = none ∧ parseLine? "SETOP 4294967296" = none ∧
    parseLine? "NOP" = none := by decide
/-- P1 step 3. -/
theorem test_assemble : assemble? ["WR ver, 5", "READ STATUS"] =
    some [.writeOpnd 5, .writeCw 0x0121, .read .status] := by decide

/-! ### Witnesses: for every statement with hypotheses, states and operands that meet them all, clause by clause -/

theorem test_witness_ResetActionRestoresEveryResetValue :
    (stopped [.reset, .writeCw 1]).hostQueue = .reset :: [.writeCw 1] ∧ (stopped [.reset]).faulted = true := by decide

theorem test_witness_FirstCommandAfterReset : Instr.decode.wellFormed = true ∧
    ((Instr.msgRd .sigLen).wellFormed = true ∧ readsMsg (.msgRd .sigLen) = true) ∧
    (Instr.encode.wellFormed = true ∧ readsMsg .encode = true) ∧ Instr.outPop.wellFormed = true := by decide

theorem test_witness_HostAccessTable :
    (acting [.read .cw]).hostQueue = .read .cw :: [] ∧ (acting [.read .opnd]).hostQueue = .read .opnd :: [] ∧
    (acting [.read .status]).hostQueue = .read .status :: [] ∧ (acting [.read .fault]).hostQueue = .read .fault :: [] ∧
    (acting [.read .rdata]).hostQueue = .read .rdata :: [] ∧ statusRdv (acting [.read .rdata]).status = false ∧
    statusRdv { acting [.read .rdata] with status := 0x0100 }.status = true ∧
    (acting [.copyRdata]).hostQueue = .copyRdata :: [] ∧ statusRdv (acting [.copyRdata]).status = false ∧
    statusRdv { acting [.copyRdata] with status := 0x0100 }.status = true ∧
    (acting [.writeOpnd 0xFFFFFFFF]).hostQueue = .writeOpnd 0xFFFFFFFF :: [] ∧
    (acting [.writeReadOnly .fault 1]).hostQueue = .writeReadOnly .fault 1 :: [] := by decide

theorem test_witness_IdleInstanceKeepsAllItsState : { withIn .strict f8 with msg := m8 }.hostQueue = [] := by decide

theorem test_witness_CwWriteRunsTheDecodedCommand : (acting [.writeCw 0x0722]).hostQueue = .writeCw 0x0722 :: [] ∧
    (acting [.writeCw 0x0722]).faulted = false ∧ decode 0x0722 = .ok (.msgRd .sigLen) := by decide

/-- One word for each line of the list of R59, at the boundary of each range, and the legal words beside them. -/
theorem test_witness_IllegalWordsRaiseIllegalCommand : (acting [.writeCw 0x0000]).hostQueue = .writeCw 0x0000 :: [] ∧
    (acting [.writeCw 0x0000]).faulted = false ∧ illegalWord 0x0000 ∧ illegalWord 0x00FF ∧ illegalWord 0x1001 ∧
    illegalWord 0x0101 ∧ illegalWord 0x0621 ∧ illegalWord 0x0822 ∧ 0x0521 ∈ legalWords ∧ 0x0722 ∈ legalWords :=
  ⟨rfl, by decide, .inr (.inl (by decide)), .inr (.inl (by decide)), .inl (by decide), .inr (.inr (.inl (by decide))),
    .inr (.inr (.inr (.inl (by decide)))), .inr (.inr (.inr (.inr (by decide)))), by decide, by decide⟩

theorem test_witness_QuiescentInstanceExecutesNothing : ∀ a ∈ [HostAction.writeCw 0x0020, .writeOpnd 7, .read .fault,
    .read .rdata, .reset], Inv (stopped [a]) ∧ (stopped [a]).faulted = true ∧ (stopped [a]).hostQueue = a :: [] := by decide

/-- The state quiescence ends in: reset is the only step to it. -/
theorem test_witness_QuiescentInstanceIsReset : (after (step (stopped [.reset]))).map (·.faulted) = some false := by decide

theorem test_witness_FaultStaysAsFirstRecordedUntilReset : (stopped [.writeCw 0x0020, .writeOpnd 7]).faulted = true ∧
    HostAction.reset ∉ (stopped [.writeCw 0x0020, .writeOpnd 7]).hostQueue ∧
    Host.Core.run Sys2Proof.core 1 (stopped [.writeCw 0x0020, .writeOpnd 7]) =
      .next { stopped [.writeOpnd 7] with hostPc := 1 } := ⟨by decide, by decide, rfl⟩

/-- A raise by a command and one by an illegal word. -/
theorem test_witness_RaiseWritesOnlyFaultAndStatus :
    ((acting [.writeCw 0x0002]).hostQueue = .writeCw 0x0002 :: [] ∧ (acting [.writeCw 0x0002]).faulted = false ∧
      (after (step (acting [.writeCw 0x0002]))).map (·.faulted) = some true) ∧
    ((acting [.writeCw 0x0000]).hostQueue = .writeCw 0x0000 :: [] ∧
      (after (step (acting [.writeCw 0x0000]))).map (·.faulted) = some true) := by decide

/-- A CW write that executes, one on a faulted instance, and another action. -/
theorem test_witness_HostCommandIndexCountsCwWrites :
    (after (step (acting [.writeCw 0x0011]))).map (·.hostPc) = some 1 ∧
    (after (step (stopped [.writeCw 0x0011]))).map (·.hostPc) = some 1 ∧
    (after (step (acting [.writeOpnd 1]))).map (·.hostPc) = some 0 := by decide

/-- Each stop of the machine, at the state the statement names. -/
theorem test_witness_StepStopsOnlyOnForbiddenHostAccess : step (acting [.read .rdata]) = .fault .rdataHoldsNoValue ∧
    step (acting [.copyRdata]) = .fault .rdataHoldsNoValue ∧ step (acting [.read .cw]) = .refused .commandPortRead ∧
    step (acting [.writeReadOnly .status 0]) = .refused (.readOnlyWrite .status) := ⟨rfl, rfl, rfl, rfl⟩

/-- The smallest and the largest legal configuration (R6). -/
theorem test_witness_InvariantHoldsAfterReset : Config.Legal ⟨.strict, 15, 15, 0, 0⟩ ∧ Config.Legal Config.vectors ∧
    ¬ Config.Legal ⟨.strict, 14, 15, 0, 0⟩ := by decide

/-- A running state that meets the invariant and steps, one whose step raises, and a faulted one. -/
theorem test_witness_StepKeepsInvariant :
    ∀ s ∈ [{ withIn .strict f8 with hostQueue := [.writeCw 0x0001] }, acting [.writeCw 0x0002], stopped [.reset]],
      Inv s ∧ (after (step s)).isSome = true := by decide

/-- Two states that differ in MSG and RDATA and show the same. -/
theorem test_witness_HiddenValuesNeverShow : SameView (acting [.writeCw 0x0001])
    { acting [.writeCw 0x0001] with msg := { m8 with valid := false }, rdata := 7 } ∧
    acting [.writeCw 0x0001] ≠ { acting [.writeCw 0x0001] with msg := { m8 with valid := false }, rdata := 7 } := by decide

/-- Two instances, interleaved. -/
theorem test_witness_InstancesAreIndependent :
    (∃ ts, runSchedule [1, 0, 1] [acting [.writeCw 0x0020], stopped [.reset, .writeCw 0x0011]] = .next ts) ∧
    [acting [.writeCw 0x0020], stopped [.reset, .writeCw 0x0011]][1]? = some (stopped [.reset, .writeCw 0x0011]) :=
  ⟨⟨_, rfl⟩, rfl⟩

/-- Commands that write none of MSG and RDATA, and a raise. -/
theorem test_witness_FrameOfEveryCommand : (run1 .inPush (start .legacy)).isSome = true ∧
    (Instr.inPush ≠ .encode ∧ Instr.inPush ≠ .outPop) ∧ writesMsg .inPush = false ∧ writesRdata .inPush = false ∧
    (run1 .encode (start .legacy)).isSome = true ∧ (Instr.encode ≠ .inPush ∧ Instr.encode ≠ .decode) := by decide

theorem test_witness_FrameOfTheByteSpaces : (run1 .inPush (withIn .legacy f8)).isSome = true ∧ 21 < (withIn .legacy f8).ibuf.length ∧
    (run1 .encode { withMsg m8 0 with obuf := [0xEE] }).isSome = true ∧ 0 < [(0xEE : Byte)].length ∧
    (run1 .outPop { start .legacy with obuf := [3, 0] }).isSome = true ∧
    (run1 .decode (withIn .legacy f8)).map (·.status) = some 0x0000 ∧
    (run1 .decode (withIn .strict f8)).map (·.status) = some 0x0001 := by decide

/-- A command with a result, one without, and one that would have one but does not end OK. -/
theorem test_witness_ResultIsValidExactlyAfterReadingCommands :
    (run1 .inLen (start .legacy)).map (fun t => statusRdv t.status) = some true ∧
    (run1 .msgNew (start .legacy)).map (fun t => statusRdv t.status) = some false ∧
    (run1 .outPop (start .legacy)).map (fun t => statusRdv t.status) = some false := by decide

/-- A command that ends with a code of R98 and one that raises. -/
theorem test_witness_OutcomesByCommand : Instr.outPop.wellFormed = true ∧ (run1 .outPop (start .legacy)).isSome = true ∧
    Instr.encode.wellFormed = true ∧ (run1 .encode (start .legacy)).map (·.faulted) = some true := by decide

/-- Each of the five ways MSG.valid changes. -/
theorem test_witness_MsgValidityChangesOnlyAsListed :
    (run1 .msgNew (start .legacy)).map (·.msg.valid) = some true ∧ (start .legacy).msg.valid = false ∧
    (run1 .decode (withIn .legacy f8)).map (·.msg.valid) = some true ∧ (withIn .legacy f8).msg.valid = false ∧
    (run1 .decode (withMsg m8 0)).map (·.msg.valid) = some false ∧ (withMsg m8 0).msg.valid = true ∧
    (run1 .encode (withMsg m8 0)).map (·.msg.valid) = some false ∧
    (run1 .encode (withMsg { m8 with signatureLength := 2 } 0)).map (fun t => (t.msg.valid, t.status)) =
      some (false, 0x0002) := by decide

/-- Other opaque fields, and a command that completes with them. -/
theorem test_witness_OpaqueMessageFieldsDecideNothing : withOpaque m8 0xFF 0xFFFF 0 0x8001 ≠ m8 ∧
    (run1 .encode (withMsg m8 0)).isSome = true ∧
    (run1 .encode (withMsg (withOpaque m8 0xFF 0xFFFF 0 0x8001) 0)).isSome = true := by decide

/-- F8 with every opaque byte replaced. -/
theorem test_witness_DecodeIgnoresOpaqueHeaderBytes :
    ∃ other : List Byte, other.length = (withIn .legacy f8).ibuf.length ∧
      (∀ a : Nat, a < 4 ∨ 9 ≤ a ∧ a < 13 ∨ 15 ≤ a → other[a]? = (withIn .legacy f8).ibuf[a]?) ∧
      other[4]? ≠ (withIn .legacy f8).ibuf[4]? ∧ ∃ t, exec .decode (withIn .legacy f8) = .next t :=
  ⟨f8.take 4 ++ [0xFF, 0xFF, 0xFF, 0xFF, 0xFF] ++ (f8.drop 9).take 4 ++ [0xFF, 0xFF] ++ f8.drop 15, by decide, by
    intro a h
    by_cases ha : a < 22
    · revert h; revert ha; revert a; decide
    · rw [List.getElem?_eq_none (Nat.le_trans (by decide : _ ≤ 22) (Nat.le_of_not_lt ha)),
        List.getElem?_eq_none (Nat.le_trans (by decide : _ ≤ 22) (Nat.le_of_not_lt ha))], by decide, _, rfl⟩

theorem test_witness_DecodeAndEncodeAgree : (Instr.msgWr .encrypted).wellFormed = true ∧
    decode 0x0521 = .ok (.msgWr .encrypted) := by decide

theorem test_witness_OpcodeTableRowsAgreeWithDecoder : decode 0x0722 = .ok (.msgRd .sigLen) ∧ decode 0x0001 = .ok .decode := by
  decide

/-- R60: POPN 2 is two pops with two reads after each, and no more. -/
theorem test_popn_is_its_repetition : (AsmLine.popn 2).expand = [.writeCw 0x0012, .read .status, .read .rdata,
    .writeCw 0x0012, .read .status, .read .rdata] := by decide

theorem test_witness_AssemblerFollowsTheSyntax : (Instr.msgWr .signatureLength).wellFormed = true ∧
    instrText (.msgWr .signatureLength) = "MSG_WR sl" := by decide

/-- Two bytes that fill IBUF to its last place. -/
theorem test_witness_PushingBytesBuffersThemInOrder :
    let s := { withIn .legacy f8 with config := ⟨.legacy, 24, 40, 20, 20⟩,
                                      hostQueue := (AsmLine.pushb [0, 255]).expand ++ [HostAction.reset] }
    s.faulted = false ∧ s.hostQueue = (AsmLine.pushb [0, 255]).expand ++ [HostAction.reset] ∧
    (∀ b ∈ [(0 : Word32), 255], b.toNat < 256) ∧ s.ibuf.length + [(0 : Word32), 255].length ≤ s.config.ibufCap :=
  ⟨by decide, rfl, by simp, by decide⟩

/-- The operands on both sides of the byte range, and IBUF full and with one place left. -/
theorem test_witness_InPushAppendsOneByte : 256 ≤ { start .legacy with opnd := 256 }.opnd.toNat ∧
    (let s := { withIn .legacy (List.replicate 40 0) with opnd := 255 }
     s.opnd.toNat < 256 ∧ s.ibuf.length = s.config.ibufCap) ∧
    (let s := { withIn .legacy (List.replicate 39 0) with opnd := 255 }
     s.opnd.toNat < 256 ∧ s.ibuf.length ≠ s.config.ibufCap) := by decide

theorem test_witness_LengthCommandsReadBufferLengths : (withIn .legacy f8).config.Legal ∧ Memory.wf (withIn .legacy f8) := by
  decide

theorem test_witness_OutPopReturnsTheOldestByte : (start .legacy).obuf = [] ∧
    { start .legacy with obuf := [3, 0] }.obuf = 3 :: [0] := by decide

/-- MSG invalid; the version field just above and at its width; a 32-bit field at its largest value. -/
theorem test_witness_MsgWrWritesTheSelectedField :
    (Selector.version.writable = true ∧ (start .legacy).msg.valid = false) ∧
    ((withMsg m8 256).msg.valid = true ∧ 2 ^ fieldWidth .version ≤ (withMsg m8 256).opnd.toNat) ∧
    ((withMsg m8 255).msg.valid = true ∧ (withMsg m8 255).opnd.toNat < 2 ^ fieldWidth .version) ∧
    (Selector.payloadLength.writable = true ∧
      (withMsg m8 0xFFFFFFFF).opnd.toNat < 2 ^ fieldWidth .payloadLength) := by decide

theorem test_witness_MsgRdReadsTheSelectedField : (start .legacy).msg.valid = false ∧ (withMsg m8 0).msg.valid = true := by
  decide

/-- Both byte pushes: invalid, operand 256, operand 255 with the field full and with one place left. -/
theorem test_witness_MsgPushDataAppendsOneByte : (start .legacy).msg.valid = false ∧
    ((withMsg m8 256).msg.valid = true ∧ 256 ≤ (withMsg m8 256).opnd.toNat) ∧
    (let s := withMsg { m8 with data := List.replicate 20 0 } 255
     s.msg.valid = true ∧ s.opnd.toNat < 256 ∧ s.msg.data.length = s.config.msgDataCap) ∧
    (let s := withMsg { m8 with data := List.replicate 19 0 } 255
     s.msg.valid = true ∧ s.opnd.toNat < 256 ∧ s.msg.data.length ≠ s.config.msgDataCap) := by decide

theorem test_witness_MsgPushSigAppendsOneByte : (start .legacy).msg.valid = false ∧
    ((withMsg m8 256).msg.valid = true ∧ 256 ≤ (withMsg m8 256).opnd.toNat) ∧
    (let s := withMsg { m8 with signature := List.replicate 20 0 } 255
     s.msg.valid = true ∧ s.opnd.toNat < 256 ∧ s.msg.signature.length = s.config.msgSigCap) ∧
    (let s := withMsg { m8 with signature := List.replicate 19 0 } 255
     s.msg.valid = true ∧ s.opnd.toNat < 256 ∧ s.msg.signature.length ≠ s.config.msgSigCap) := by decide

/-- Invalid; the first index out of range; the last index in range. -/
theorem test_witness_ByteReadsReturnTheIndexedByte : (start .legacy).msg.valid = false ∧
    ((withMsg m8 4).msg.valid = true ∧ (withMsg m8 4).msg.data.length ≤ (withMsg m8 4).opnd.toNat) ∧
    (withMsg m8 3).msg.signature.length ≤ (withMsg m8 3).opnd.toNat ∧
    (withMsg m8 3).msg.data[(withMsg m8 3).opnd.toNat]? = some 3 ∧
    (withMsg m8 2).msg.signature[(withMsg m8 2).opnd.toNat]? = some 2 := by decide

/-- Fourteen bytes, one short of the header (V-D1). -/
theorem test_witness_ShortBufferIsIncomplete : (withIn .legacy (f8.take 14)).ibuf.length < 15 ∧
    (withIn .strict (f8.take 14)).ibuf.length < 15 := by decide

/-- V-D2, and V-D3 with nothing behind the header. -/
theorem test_witness_LegacyDecodeSplitsByBufferedLength :
    ((withIn .legacy f8).ibuf = f8.take 15 ++ [3, 3, 3, 3] ++ [2, 2, 2] ∧ (f8.take 15).length = 15 ∧
      readHeader? (f8.take 15) = some h8 ∧ [(2 : Byte), 2, 2].length = h8.signatureLength.toNat ∧
      [(3 : Byte), 3, 3, 3].length ≤ 20 ∧ [(2 : Byte), 2, 2].length ≤ 20) ∧
    readHeader? (List.replicate 15 0) = some ⟨0, 0, 0, 0, 0, 0⟩ := by decide

/-- V-D4: one signature byte declared, none buffered. -/
theorem test_witness_LegacyUnderflowFaults :
    let s := withIn .legacy ([1, 0, 0, 0] ++ List.replicate 11 0)
    s.config.framingMode = .legacy ∧ readHeader? s.ibuf = some ⟨1, 0, 0, 0, 0, 0⟩ ∧
      s.ibuf.length - 15 < (1 : Word32).toNat := by decide

/-- V-D7 (F8 waits for 29 bytes), and V-D8 (F8 with its true length and three bytes more). -/
theorem test_witness_StrictDecodeSplitsByDeclaredLengths :
    (let s := withIn .strict f8
     s.config.framingMode = .strict ∧ h8.payloadLength.toNat ≤ s.config.msgDataCap ∧
       h8.signatureLength.toNat ≤ s.config.msgSigCap ∧
       15 + h8.payloadLength.toNat + h8.signatureLength.toNat ≤ s.config.ibufCap ∧ readHeader? s.ibuf = some h8 ∧
       s.ibuf.length < 15 + h8.payloadLength.toNat + h8.signatureLength.toNat) ∧
    (let s := withIn .strict (f8true ++ [0xAA, 0xBB, 0xCC])
     s.ibuf = f8true.take 15 ++ [3, 3, 3, 3] ++ [2, 2, 2] ++ [0xAA, 0xBB, 0xCC] ∧ (f8true.take 15).length = 15 ∧
       readHeader? (f8true.take 15) = some ⟨3, 5, 12, 9, 4, 10⟩ ∧ [(3 : Byte), 3, 3, 3].length = (4 : Word32).toNat ∧
       [(2 : Byte), 2, 2].length = (3 : Word32).toNat) := by decide

/-- V-D13 in LEGACY with the data capacity one byte short; each of the three STRICT causes; and a configuration that can hold
any buffered frame. -/
theorem test_witness_DecodeCapacityFaults :
    (let s := { withIn .legacy f8 with config := ⟨.legacy, 40, 40, 3, 3⟩ }
     s.config.framingMode = .legacy ∧ readHeader? s.ibuf = some h8 ∧ h8.signatureLength.toNat ≤ s.ibuf.length - 15 ∧
       s.config.msgDataCap < s.ibuf.length - h8.signatureLength.toNat - 15) ∧
    (let s := { withIn .legacy f8 with config := ⟨.legacy, 40, 40, 4, 2⟩ }
     s.config.msgSigCap < h8.signatureLength.toNat ∧ readHeader? s.ibuf = some h8) ∧
    (let s := { withIn .strict f8 with config := ⟨.strict, 40, 40, 10, 3⟩ }
     s.config.framingMode = .strict ∧ readHeader? s.ibuf = some h8 ∧ s.config.msgDataCap < h8.payloadLength.toNat) ∧
    (let s := { withIn .strict f8 with config := ⟨.strict, 40, 40, 11, 2⟩ }
     readHeader? s.ibuf = some h8 ∧ s.config.msgSigCap < h8.signatureLength.toNat) ∧
    (let s := { withIn .strict f8 with config := ⟨.strict, 28, 40, 11, 3⟩ }
     readHeader? s.ibuf = some h8 ∧ s.config.ibufCap < 15 + h8.payloadLength.toNat + h8.signatureLength.toNat) ∧
    (let s := { withIn .legacy f8 with config := ⟨.legacy, 22, 15, 7, 7⟩ }
     Memory.wf s ∧ s.config.ibufCap - 15 ≤ s.config.msgDataCap ∧ s.config.ibufCap - 15 ≤ s.config.msgSigCap ∧
       (run1 .decode s).isSome = true) := by decide

theorem test_witness_DecodeConsumesExactlyItsFrame : (run1 .decode (withIn .legacy f8)).map (·.status) = some 0x0000 ∧
    (run1 .decode (withIn .strict (f8true ++ [0xAA]))).map (·.status) = some 0x0000 := by decide

theorem test_witness_DeclaredLengthsHoldAfterDecode : (run1 .decode (withIn .strict f8true)).map (·.status) = some 0x0000 ∧
    (withIn .strict f8true).config.framingMode = .strict ∧
    (run1 .decode (withIn .legacy f8)).map (·.status) = some 0x0000 := by decide

/-- F8's first 17 bytes underflow, its first 18 and its first 20 (V-D5) misparse. -/
theorem test_witness_LegacyMisparsesAPartialFrame : m8.signatureLength.toNat = m8.signature.length ∧
    m8.data.length ≤ (start .legacy).config.msgDataCap ∧ m8.signature.length ≤ (start .legacy).config.msgSigCap ∧
    (15 ≤ 17 ∧ 17 < 15 + m8.data.length + m8.signature.length ∧ 17 - 15 < m8.signature.length) ∧
    (15 ≤ 18 ∧ 18 < 15 + m8.data.length + m8.signature.length ∧ m8.signature.length ≤ 18 - 15) ∧
    (withIn .legacy (f8.take 20)).ibuf = (frameOf m8).take 20 ∧
    (withIn .legacy (f8.take 17)).ibuf = (frameOf m8).take 17 := by decide

/-- V-D6 (three extra bytes), V-D6b (one), and V-D8 in STRICT. -/
theorem test_witness_LegacyOverReadsAndStrictDoesNot : m8.signatureLength.toNat = m8.signature.length ∧
    m8.data.length + [(0xAA : Byte), 0xBB, 0xCC].length ≤ (start .legacy).config.msgDataCap ∧
    m8.signature.length ≤ (start .legacy).config.msgSigCap ∧
    ((withIn .legacy (f8 ++ [0xAA, 0xBB, 0xCC])).ibuf = frameOf m8 ++ [0xAA, 0xBB, 0xCC] ∧
      m8.signature.length ≤ [(0xAA : Byte), 0xBB, 0xCC].length) ∧
    ((withIn .legacy (f8 ++ [0xAA])).ibuf = frameOf m8 ++ [0xAA] ∧ [(0xAA : Byte)].length < m8.signature.length) ∧
    ((withIn .strict (f8true ++ [0xAA])).ibuf = frameOf m8true ++ [0xAA] ∧
      m8true.payloadLength.toNat = m8true.data.length ∧ Memory.wf (withIn .strict (f8true ++ [0xAA]))) := by decide

/-- The empty buffer and the frame without its last byte. -/
theorem test_witness_StrictWaitsOnEveryProperPrefix : m8true.signatureLength.toNat = m8true.signature.length ∧
    m8true.payloadLength.toNat = m8true.data.length ∧ m8true.data.length ≤ (start .strict).config.msgDataCap ∧
    m8true.signature.length ≤ (start .strict).config.msgSigCap ∧
    15 + m8true.data.length + m8true.signature.length ≤ (start .strict).config.ibufCap ∧
    21 < 15 + m8true.data.length + m8true.signature.length ∧ (start .strict).ibuf = (frameOf m8true).take 0 ∧
    (withIn .strict (f8true.take 21)).ibuf = (frameOf m8true).take 21 := by decide

theorem test_witness_IncompleteDecodeRepeatsUnchanged : (run1 .decode (withIn .strict f8)).map (·.status) = some 0x0001 ∧
    (run1 .decode (withIn .legacy (f8.take 14))).map (·.status) = some 0x0001 := by decide

/-- Invalid; a false signature length (V-E2); OBUF one byte short; OBUF exactly large enough (V-E6's boundary). -/
theorem test_witness_EncodeAppendsTheFrame : (start .legacy).msg.valid = false ∧
    (let s := withMsg { m8 with signatureLength := 2 } 0
     s.msg.valid = true ∧ s.msg.signatureLength.toNat ≠ s.msg.signature.length) ∧
    (let s := { withMsg m8 0 with config := ⟨.legacy, 40, 21, 20, 20⟩ }
     s.msg.valid = true ∧ s.msg.signatureLength.toNat = s.msg.signature.length ∧
       s.config.obufCap < s.obuf.length + (15 + s.msg.data.length + s.msg.signature.length)) ∧
    (let s := { withMsg m8 0 with config := ⟨.legacy, 40, 22, 20, 20⟩ }
     s.msg.valid = true ∧ s.msg.signatureLength.toNat = s.msg.signature.length ∧
       s.obuf.length + (15 + s.msg.data.length + s.msg.signature.length) ≤ s.config.obufCap) := by decide

theorem test_witness_EncodeEqualsReserveAndMemWrite : (run1 .encode (withMsg m8 0)).map (·.status) = some 0x0000 := by decide

theorem test_witness_EncodeNeverChecksPayloadLength : (run1 .encode (withMsg m8 0)).map (·.status) = some 0x0000 ∧
    (run1 .encode (withMsg m8 0)).map (·.obuf) = some f8 := by decide

/-- The host about to run the loopback of M8 in LEGACY. -/
theorem test_witness_LegacyRoundTripReproducesTheMessage :
    loopbackStart { start .legacy with msg := m8, hostQueue := loopback m8 } ∧ (start .legacy).config.framingMode = .legacy :=
  ⟨⟨by decide, rfl, rfl, by decide, by decide, rfl, rfl, by decide, by decide, rfl⟩, rfl⟩

/-- In STRICT, with payload_length true, too large and too small. -/
theorem test_witness_StrictRoundTripNeedsTruePayloadLength :
    (start .strict).config.framingMode = .strict ∧
    (loopbackStart { start .strict with msg := m8true, hostQueue := loopback m8true } ∧
      m8true.payloadLength.toNat = m8true.data.length) ∧
    (loopbackStart { start .strict with msg := m8, hostQueue := loopback m8 } ∧ m8.data.length < m8.payloadLength.toNat) ∧
    (loopbackStart { start .strict with msg := { m8 with payloadLength := 3 },
                                        hostQueue := loopback { m8 with payloadLength := 3 } } ∧
      (3 : Word32).toNat < m8.data.length) :=
  ⟨rfl, ⟨⟨by decide, rfl, rfl, by decide, by decide, rfl, rfl, by decide, by decide, rfl⟩, rfl⟩,
    ⟨⟨by decide, rfl, rfl, by decide, by decide, rfl, rfl, by decide, by decide, rfl⟩, by decide⟩,
    ⟨⟨by decide, rfl, rfl, by decide, by decide, rfl, rfl, by decide, by decide, rfl⟩, by decide⟩⟩

/-- A safe run of one command, and an illegal word with a reset after it. -/
theorem test_witness_SafeRunNeverReachesAFault : SafeRun 1 (acting [.writeCw 0x0020]) ∧
    (acting [.writeCw 0x0000, .reset]).hostQueue = .writeCw 0x0000 :: [.reset] ∧ illegalWord 0x0000 :=
  ⟨⟨by decide, _, rfl, by unfold SafeRun; decide⟩, rfl, .inr (.inl (by decide))⟩

end Sys2Proof.Tests
end

/-! PROOFS. Which words decode, and to what: a decodable word is the word of a well-formed command (spec 30_encoding R56 to
R59). -/

namespace Sys2Proof.Proofs

/-- A well-formed command's own word decodes to the command (R54, R57, R58). -/
theorem decode_encode {i : Instr} (h : i.wellFormed = true) : decode (encode i) = .ok i := by
  cases i with
  | msgWr f => cases f <;> revert h <;> decide
  | msgRd f => cases f <;> decide
  | _ => decide

/-- An opcode without a selector decodes to its command or not at all. -/
theorem withoutSel_ok {w : Word16} {i j : Instr} (h : withoutSel w i = .ok j) : j = i := by
  unfold withoutSel at h
  split at h <;> cases h
  rfl

theorem decodeMsgWr_ok {w : Word16} {j : Instr} (h : decodeMsgWr w = .ok j) :
    ∃ f : Selector, f.writable = true ∧ j = .msgWr f := by
  unfold decodeMsgWr at h
  split at h
  · split at h <;> cases h
    exact ⟨_, ‹_›, rfl⟩
  · cases h

theorem decodeMsgRd_ok {w : Word16} {j : Instr} (h : decodeMsgRd w = .ok j) : ∃ f, j = .msgRd f := by
  unfold decodeMsgRd at h
  split at h <;> cases h
  exact ⟨_, rfl⟩

/-- Every command the opcode map yields has a legal word (R59). -/
theorem wellFormed_of_decode {w : Word16} {i : Instr} (h : decode w = .ok i) : i.wellFormed = true := by
  unfold decode at h
  split at h
  · unfold decodeOpc at h
    split at h
    case h_8 => obtain ⟨f, hf, rfl⟩ := decodeMsgWr_ok h; exact hf
    case h_9 => obtain ⟨f, rfl⟩ := decodeMsgRd_ok h; rfl
    case h_14 => cases h
    all_goals rw [withoutSel_ok h]; rfl
  · cases h

end Sys2Proof.Proofs

/-! PROOFS. How a command can end (spec 60_exceptions R98 to R100): it raises a cause that R99 names for it, or ends with a
code that R98 names for it, FAULT untouched and every buffer within its capacity. -/

namespace Sys2Proof.Proofs

open Sys2Proof.Machine Sys2Proof.Spec Sys2Proof.Laws

/-- The command raises a cause of R99 whose "raised by" column names it. -/
def RaisesAs (i : Instr) (s t : State) : Prop :=
  ∃ c, mayRaise s.config.framingMode i c = true ∧ t = s.raise c (encode i)

/-- The command goes on: a code of R98 that names it, RDV = 1 exactly for a command with a result that ends OK (R26), and
the parts of the state that no such end may damage. -/
structure EndsAs (i : Instr) (s t : State) : Prop where
  code : ∃ c, mayEnd i c = true ∧ t.status = statusWord c.byte (writesRdata i && decide (c = .ok))
  fault : t.fault = s.fault
  config : t.config = s.config
  wf : Memory.wf s → Memory.wf t

section
variable {i : Instr} {s t u : State}

/-- A command without a result ends OK after an edit that spares FAULT and the configuration. -/
theorem EndsAs.finish_ok (hr : writesRdata i = false) (hf : u.fault = s.fault) (hc : u.config = s.config)
    (hw : Memory.wf s → Memory.wf u) : EndsAs i s (u.finish .ok) :=
  ⟨⟨.ok, rfl, by simp [hr]⟩, hf, hc, hw⟩

/-- A command ends with a code of R98 other than OK. -/
theorem EndsAs.finish_of_ne_ok {c : Code} (hm : mayEnd i c = true) (hn : c ≠ .ok) (hf : u.fault = s.fault)
    (hc : u.config = s.config) (hw : Memory.wf s → Memory.wf u) : EndsAs i s (u.finish c) :=
  ⟨⟨c, hm, by simp [hn]⟩, hf, hc, hw⟩

/-- A command with a result answers it. -/
theorem EndsAs.answer {v : Word32} (hr : writesRdata i = true) (hf : u.fault = s.fault) (hc : u.config = s.config)
    (hw : Memory.wf s → Memory.wf u) : EndsAs i s (u.answer v) :=
  ⟨⟨.ok, rfl, by simp [hr]⟩, hf, hc, hw⟩

theorem execInPush_ends (h : execInPush s = .next t) : RaisesAs .inPush s t ∨ EndsAs .inPush s t := by
  unfold execInPush at h
  split at h
  · exact .inl ⟨_, rfl, raiseIn_next h⟩
  · split at h
    · exact .inl ⟨_, rfl, raiseIn_next h⟩
    · cases h
      refine .inr (.finish_ok rfl rfl rfl fun hw => setIbuf_wf hw ?_)
      have := hw.1
      simp only [List.length_append, List.length_singleton]
      omega

theorem execOutPop_ends (h : execOutPop s = .next t) : EndsAs .outPop s t := by
  unfold execOutPop at h
  split at h
  · cases h; exact .finish_of_ne_ok rfl (by decide) rfl rfl id
  · rename_i b rest hb
    cases h
    refine .answer rfl rfl rfl fun hw => setObuf_wf hw ?_
    have := hw.2.1
    simp only [hb, List.length_cons] at this
    omega

/-- A frame that lies inside IBUF and fits MSG is taken (R69, R70). -/
theorem takeFrame_ends {hd : Header} {b : Nat} (h : takeFrame hd b s = .next t)
    (hb : b + hd.signatureLength.toNat ≤ s.ibuf.length) (hdata : b - HDR ≤ s.config.msgDataCap)
    (hsig : hd.signatureLength.toNat ≤ s.config.msgSigCap) : EndsAs .decode s t where
  code := ⟨.ok, rfl, by rw [takeFrame_next h]; rfl⟩
  fault := by rw [takeFrame_next h]
  config := by rw [takeFrame_next h]
  wf hw := takeFrame_wf hw h hb hdata hsig

theorem decodeIncomplete_ends : EndsAs .decode s (s.invalidateMsg.finish .incomplete) :=
  .finish_of_ne_ok rfl (by decide) rfl rfl invalidateMsg_wf

theorem execDecode_ends (h : execDecode s = .next t) : RaisesAs .decode s t ∨ EndsAs .decode s t := by
  unfold execDecode at h
  split at h
  · rw [decodeIncomplete_next h]; exact .inr decodeIncomplete_ends
  · split at h
    · rename_i hmode
      obtain ⟨-, ht⟩ | ⟨-, -, ht⟩ | ⟨hn, hdata, hsig, ht⟩ := decodeLegacy_next h
      · exact .inl ⟨_, by simp [mayRaise, hmode], ht⟩
      · exact .inl ⟨_, rfl, ht⟩
      · exact .inr (takeFrame_ends ht (by omega) hdata hsig)
    · obtain ⟨-, ht⟩ | ⟨-, rfl⟩ | ⟨hn, hdata, hsig, ht⟩ := decodeStrict_next h
      · exact .inl ⟨_, rfl, ht⟩
      · exact .inr decodeIncomplete_ends
      · exact .inr (takeFrame_ends ht hn (by omega) hsig)

theorem execEncode_ends (h : execEncode s = .next t) : RaisesAs .encode s t ∨ EndsAs .encode s t := by
  unfold execEncode at h
  split at h
  · exact .inl ⟨_, rfl, raiseIn_next h⟩
  · split at h
    · cases h; exact .inr (.finish_of_ne_ok rfl (by decide) rfl rfl invalidateMsg_wf)
    · split at h
      · exact .inl ⟨_, rfl, raiseIn_next h⟩
      · cases h
        refine .inr (.finish_ok rfl rfl rfl fun hw => invalidateMsg_wf (setObuf_wf hw ?_))
        simp only [List.length_append, frameOf_length]
        omega

/-- MSG_WR writes header fields only: the byte fields stay (R91). -/
@[simp] theorem writeField_data (m : Msg) (f : Selector) (v : Word32) : (m.writeField f v).data = m.data := by
  cases f <;> rfl

@[simp] theorem writeField_signature (m : Msg) (f : Selector) (v : Word32) :
    (m.writeField f v).signature = m.signature := by
  cases f <;> rfl

theorem execMsgWr_ends {f : Selector} (hf : f.writable = true) (h : execMsgWr f s = .next t) :
    RaisesAs (.msgWr f) s t ∨ EndsAs (.msgWr f) s t := by
  unfold execMsgWr at h
  rw [if_neg (by simp [hf])] at h
  split at h
  · exact .inl ⟨_, rfl, raiseIn_next h⟩
  · split at h
    · exact .inl ⟨_, rfl, raiseIn_next h⟩
    · cases h
      refine .inr (.finish_ok rfl rfl rfl fun hw => ?_)
      obtain ⟨-, -, hdata, hsig⟩ := id hw
      exact setMsg_wf hw (by simpa using hdata) (by simpa using hsig)

theorem execMsgRd_ends {f : Selector} (h : execMsgRd f s = .next t) :
    RaisesAs (.msgRd f) s t ∨ EndsAs (.msgRd f) s t := by
  unfold execMsgRd at h
  split at h
  · exact .inl ⟨_, rfl, raiseIn_next h⟩
  · cases h; exact .inr (.answer rfl rfl rfl id)

/-- The two byte pushes, for any command whose rows of R99 are theirs and whose new Message fits when the length differs
from the capacity (R93, R94). -/
theorem pushMsgByte_ends {len cap : Nat} {put : Byte → Msg} (hv : mayRaise s.config.framingMode i .msgInvalid = true)
    (hx : mayRaise s.config.framingMode i .operandRange = true)
    (hc : mayRaise s.config.framingMode i .capacity = true) (hr : writesRdata i = false)
    (hput : len ≠ cap → ∀ b, Memory.wf s → Memory.wf (s.setMsg (put b))) (h : pushMsgByte i len cap put s = .next t) :
    RaisesAs i s t ∨ EndsAs i s t := by
  obtain ⟨-, ht⟩ | ⟨-, -, ht⟩ | ⟨-, -, ht⟩ | ⟨-, hn, b, -, rfl⟩ := pushMsgByte_next h
  · exact .inl ⟨_, hv, ht⟩
  · exact .inl ⟨_, hx, ht⟩
  · exact .inl ⟨_, hc, ht⟩
  · exact .inr (.finish_ok hr rfl rfl (hput hn b))

theorem execMsgPushData_ends (h : execMsgPushData s = .next t) :
    RaisesAs .msgPushData s t ∨ EndsAs .msgPushData s t := by
  refine pushMsgByte_ends rfl rfl rfl rfl (fun hn b hw => ?_) h
  obtain ⟨-, -, hdata, hsig⟩ := id hw
  exact setMsg_wf hw (by simp only [List.length_append, List.length_singleton]; omega) hsig

theorem execMsgPushSig_ends (h : execMsgPushSig s = .next t) :
    RaisesAs .msgPushSig s t ∨ EndsAs .msgPushSig s t := by
  refine pushMsgByte_ends rfl rfl rfl rfl (fun hn b hw => ?_) h
  obtain ⟨-, -, hdata, hsig⟩ := id hw
  exact setMsg_wf hw hdata (by simp only [List.length_append, List.length_singleton]; omega)

/-- The two byte reads, for any command whose rows of R98 and R99 are theirs (R95, R96). -/
theorem readMsgByte_ends {field : List Byte} (hv : mayRaise s.config.framingMode i .msgInvalid = true)
    (hx : mayRaise s.config.framingMode i .indexRange = true) (hr : writesRdata i = true)
    (h : readMsgByte i field s = .next t) : RaisesAs i s t ∨ EndsAs i s t := by
  obtain ⟨-, ht⟩ | ⟨-, -, ht⟩ | ⟨-, b, -, rfl⟩ := readMsgByte_next h
  · exact .inl ⟨_, hv, ht⟩
  · exact .inl ⟨_, hx, ht⟩
  · exact .inr (.answer hr rfl rfl id)

/-- Every well-formed command that answers a state raised a cause of its own or ended with a code of its own (R98, R99). -/
theorem exec_ends (hi : i.wellFormed = true) (h : exec i s = .next t) : RaisesAs i s t ∨ EndsAs i s t := by
  cases i with
  | decode => exact execDecode_ends h
  | encode => exact execEncode_ends h
  | inPush => exact execInPush_ends h
  | inLen => cases h; exact .inr (.answer rfl rfl rfl id)
  | outPop => exact .inr (execOutPop_ends h)
  | outLen => cases h; exact .inr (.answer rfl rfl rfl id)
  | msgNew => cases h; exact .inr (.finish_ok rfl rfl rfl fun hw => setMsg_wf hw (Nat.zero_le _) (Nat.zero_le _))
  | msgWr f => exact execMsgWr_ends hi h
  | msgRd f => exact execMsgRd_ends h
  | msgPushData => exact execMsgPushData_ends h
  | msgPushSig => exact execMsgPushSig_ends h
  | msgRdData => exact readMsgByte_ends rfl rfl rfl h
  | msgRdSig => exact readMsgByte_ends rfl rfl rfl h

end

end Sys2Proof.Proofs

/-! PROOFS. Every step keeps the invariant: a raise writes a FAULT its word explains, any other end of a command leaves
FAULT zero, and the host's other actions touch nothing the invariant speaks of. -/

namespace Sys2Proof.Proofs

open Sys2Proof.Machine Sys2Proof.Laws

@[simp] theorem mem_allCodes (c : Code) : c ∈ allCodes := by cases c <;> decide

@[simp] theorem mem_allCauses (c : Cause) : c ∈ allCauses := by cases c <;> decide

/-- A raise keeps the invariant when its word can raise its cause (R99, R100). -/
theorem raise_inv {s : State} {c : Cause} {w : Word16} (h : Inv s)
    (hfit : causeFitsWord s.config.framingMode c w = true) : Inv (s.raise c w) := by
  obtain ⟨hlegal, hwf, -⟩ := h
  refine ⟨hlegal, raise_wf c w hwf, by simp, by simp, fun hf => ?_, fun _ => ⟨c, by simp, by simp, by simp, by simpa⟩⟩
  rw [raise_faulted] at hf
  cases hf

/-- A well-formed command's word can raise every cause that R99 names for the command. -/
theorem causeFitsWord_encode {m : FramingMode} {i : Instr} {c : Cause} (hi : i.wellFormed = true)
    (hc : mayRaise m i c = true) : causeFitsWord m c (encode i) = true := by
  rwa [causeFitsWord, decode_encode hi]

/-- A command that ends with a code of R98 keeps the invariant when FAULT.F = 0 before it. -/
theorem endsAs_inv {i : Instr} {s t : State} (h : Inv s) (hrun : s.faulted = false) (he : EndsAs i s t) : Inv t := by
  obtain ⟨hlegal, hwf, -, -, hrunning, -⟩ := h
  obtain ⟨⟨c, -, hstatus⟩, hfault, hconfig, hkeep⟩ := he
  have hzero : t.fault = 0 := hfault.trans (hrunning hrun).1
  have hnot : t.faulted = false := by simp [State.faulted, hzero]
  refine ⟨by rwa [hconfig], hkeep hwf, by simp [hstatus], by rw [hzero]; decide, fun _ => ⟨hzero, ⟨c, ?_⟩, ?_⟩,
    fun hf => ?_⟩
  · simp [hstatus]
  · rw [hstatus]; simp +contextual
  · rw [hnot] at hf; cases hf

theorem hostReset_inv {s : State} (h : Inv s) : Inv s.hostReset := by
  obtain ⟨hlegal, -⟩ := h
  have hnot : s.hostReset.faulted = false := by simp [State.faulted]
  refine ⟨hlegal, hostReset_wf s, by rw [State.hostReset_status]; decide, by rw [State.hostReset_fault]; decide,
    fun _ => ⟨rfl, ⟨.ok, by simp, rfl⟩, fun _ => rfl⟩, fun hf => ?_⟩
  rw [hnot] at hf
  cases hf

/-- A CW write keeps the invariant, whatever its word (R56). -/
theorem issueCommand_inv {w : Word16} {s t : State} (h : Inv s) (ht : issueCommand w s = .next t) : Inv t := by
  have h' : Inv s.advanceHostPc := h
  obtain ⟨-, rfl⟩ | ⟨-, ⟨e, he⟩, rfl⟩ | ⟨hrun, i, hi, hexec⟩ := issueCommand_next ht
  · exact h'
  · exact raise_inv h' (by simp [causeFitsWord, he])
  · have hwell := wellFormed_of_decode hi
    obtain ⟨c, hc, rfl⟩ | hends := exec_ends hwell hexec
    · exact raise_inv h' (causeFitsWord_encode hwell hc)
    · exact endsAs_inv h' hrun hends

/-- Every host action keeps the invariant: OPND and the host's own data are no part of it. -/
theorem runAction_inv {a : HostAction} {s t : State} (h : Inv s) (ht : runAction a s = .next t) : Inv t := by
  cases a with
  | writeCw w => exact issueCommand_inv h ht
  | writeOpnd v => cases ht; exact h
  | copyRdata => obtain ⟨v, -, rfl⟩ := hostCopyRdata_next ht; exact h
  | read r => obtain ⟨v, rfl⟩ := hostRead_next ht; exact h
  | writeReadOnly r v => cases ht
  | reset => cases ht; exact hostReset_inv h

/-- Settles O14: the step idles or performs one host action, and both keep the invariant. -/
theorem stepKeepsInvariant : Obligations.StepKeepsInvariant := by
  intro s t h ht
  obtain ⟨-, rfl⟩ | ⟨a, rest, -, hact⟩ := step_next ht
  · exact h
  · have h' : Inv { s with hostQueue := rest } := h
    exact runAction_inv h' hact

end Sys2Proof.Proofs

/-! PROOFS. What the header fields that no rule interprets can influence (spec 00_scope R5): nothing but their own stored
values. Two states that agree but for them stay so under every command. -/

namespace Sys2Proof.Proofs

open Sys2Proof.Machine Sys2Proof.Spec Sys2Proof.Laws

/-! ### Bytes and headers -/

/-- The header bytes a rule interprets, and every byte behind the header: all but the offsets of version, message_type,
service_id and encrypted (R49). -/
def RoutingOffset (a : Nat) : Prop := a < 4 ∨ 9 ≤ a ∧ a < 13 ∨ 15 ≤ a

/-- MemRead depends on the length of the buffer and on the bytes it reads (R37). -/
theorem memRead_congr {buf other : List Byte} {addr n : Nat} (hlen : other.length = buf.length)
    (hbytes : ∀ a, addr ≤ a → a < addr + n → other[a]? = buf[a]?) : memRead? other addr n = memRead? buf addr n := by
  have hread : (other.drop addr).take n = (buf.drop addr).take n := by
    apply List.ext_getElem?
    intro k
    simp only [List.getElem?_take, List.getElem?_drop]
    split
    · exact hbytes (addr + k) (by omega) (by omega)
    · rfl
  rw [memRead?, memRead?, hlen, hread]

/-- A slice behind the header depends on the bytes behind the header. -/
theorem slice_congr {buf other : List Byte} {a b : Nat} (hbytes : ∀ k, a ≤ k → other[k]? = buf[k]?) :
    slice other a b = slice buf a b := by
  apply List.ext_getElem?
  intro k
  simp only [slice, List.getElem?_drop, List.getElem?_take]
  rw [hbytes (a + k) (by omega)]

/-- The two declared lengths stand at offsets 0 and 9 (R51). -/
theorem lengths_of_readHeader {buf : List Byte} {hd : Header} (h : readHeader? buf = some hd) :
    memRead? buf 0 4 = some hd.signatureLength ∧ memRead? buf 9 4 = some hd.payloadLength := by
  simp only [readHeader?, Option.bind_eq_bind, Option.bind_eq_some_iff, Option.pure_def, Option.some.injEq] at h
  obtain ⟨sl, hsl, -, -, -, -, -, -, pl, hpl, -, -, rfl⟩ := h
  exact ⟨hsl, hpl⟩

/-- Headers of buffers that agree at the routing offsets declare the same lengths. -/
theorem readHeader_congr {buf other : List Byte} {hd : Header} (hlen : other.length = buf.length)
    (hbytes : ∀ a, RoutingOffset a → other[a]? = buf[a]?) (h : readHeader? buf = some hd) :
    ∃ hd', readHeader? other = some hd' ∧ hd'.signatureLength = hd.signatureLength ∧
      hd'.payloadLength = hd.payloadLength := by
  obtain ⟨hd', h'⟩ := readHeader_isSome (hlen ▸ headerLength_of_readHeader h)
  obtain ⟨hsl, hpl⟩ := lengths_of_readHeader h
  obtain ⟨hsl', hpl'⟩ := lengths_of_readHeader h'
  rw [memRead_congr hlen fun a _ ha => hbytes a (.inl (by omega)), hsl] at hsl'
  rw [memRead_congr hlen fun a ha ha' => hbytes a (.inr (.inl ⟨ha, ha'⟩)), hpl] at hpl'
  exact ⟨hd', h', (Option.some.inj hsl').symm, (Option.some.inj hpl').symm⟩

/-! ### Messages and states that agree -/

/-- Two Messages that agree but for the four fields no rule interprets. -/
structure MsgAlike (m m' : Msg) : Prop where
  valid : m'.valid = m.valid
  signatureLength : m'.signatureLength = m.signatureLength
  payloadLength : m'.payloadLength = m.payloadLength
  data : m'.data = m.data
  signature : m'.signature = m.signature

/-- Two states that agree but for the four fields in MSG, the bytes of OBUF and the value of RDATA that such a field may
have reached, and IBUF bytes at offsets that D does not name. -/
structure Alike (D : Nat → Prop) (s s' : State) : Prop where
  config : s'.config = s.config
  opnd : s'.opnd = s.opnd
  status : s'.status = s.status
  fault : s'.fault = s.fault
  ibufLength : s'.ibuf.length = s.ibuf.length
  ibufBytes : ∀ a, D a → s'.ibuf[a]? = s.ibuf[a]?
  obufLength : s'.obuf.length = s.obuf.length
  msg : MsgAlike s.msg s'.msg

/-- Two outcomes that go on to states that agree. -/
def AlikeNext (D : Nat → Prop) (o o' : Outcome) : Prop := ∃ t t', o = .next t ∧ o' = .next t' ∧ Alike D t t'

theorem MsgAlike.refl (m : Msg) : MsgAlike m m := ⟨rfl, rfl, rfl, rfl, rfl⟩

theorem MsgAlike.invalidate {m m' : Msg} (h : MsgAlike m m') :
    MsgAlike { m with valid := false } { m' with valid := false } := { h with valid := rfl }

theorem MsgAlike.writeField {m m' : Msg} (h : MsgAlike m m') (f : Selector) (v : Word32) :
    MsgAlike (m.writeField f v) (m'.writeField f v) := by
  cases f with
  | signatureLength => exact { h with signatureLength := rfl }
  | payloadLength => exact { h with payloadLength := rfl }
  | version | messageType | serviceId | encrypted | dataLen | sigLen => exact { h with }

theorem MsgAlike.pushData {m m' : Msg} (h : MsgAlike m m') (b : Byte) :
    MsgAlike { m with data := m.data ++ [b] } { m' with data := m'.data ++ [b] } :=
  { h with data := by rw [h.data] }

theorem MsgAlike.pushSignature {m m' : Msg} (h : MsgAlike m m') (b : Byte) :
    MsgAlike { m with signature := m.signature ++ [b] } { m' with signature := m'.signature ++ [b] } :=
  { h with signature := by rw [h.signature] }

theorem MsgAlike.frameSize {m m' : Msg} (h : MsgAlike m m') : frameSize m' = frameSize m := by
  rw [Machine.frameSize, Machine.frameSize, h.data, h.signature]

section
variable {D : Nat → Prop} {s s' : State}

theorem Alike.setStatus (h : Alike D s s') (code : Byte) (rdv : Bool) :
    Alike D (s.setStatus code rdv) (s'.setStatus code rdv) := { h with status := rfl }

/-- The answered value shows in RDATA alone. -/
theorem Alike.answer (h : Alike D s s') (v v' : Word32) : Alike D (s.answer v) (s'.answer v') :=
  { h with status := rfl }

theorem Alike.raise (h : Alike D s s') (c : Cause) (w : Word16) : Alike D (s.raise c w) (s'.raise c w) :=
  { h with status := rfl, fault := rfl }

theorem Alike.setMsg {m m' : Msg} (h : Alike D s s') (hm : MsgAlike m m') : Alike D (s.setMsg m) (s'.setMsg m') :=
  { h with msg := hm }

theorem Alike.invalidateMsg (h : Alike D s s') : Alike D s.invalidateMsg s'.invalidateMsg :=
  { h with msg := h.msg.invalidate }

theorem Alike.setIbuf {b b' : List Byte} (h : Alike D s s') (hlen : b'.length = b.length)
    (hbytes : ∀ a, D a → b'[a]? = b[a]?) : Alike D (s.setIbuf b) (s'.setIbuf b') :=
  { h with ibufLength := hlen, ibufBytes := hbytes }

theorem Alike.setObuf {b b' : List Byte} (h : Alike D s s') (hlen : b'.length = b.length) :
    Alike D (s.setObuf b) (s'.setObuf b') := { h with obufLength := hlen }

theorem Alike.next (h : Alike D s s') : AlikeNext D (.next s) (.next s') := ⟨s, s', rfl, rfl, h⟩

theorem Alike.raiseIn (h : Alike D s s') (i : Instr) (c : Cause) : AlikeNext D (raiseIn i c s) (raiseIn i c s') :=
  (h.raise c (encode i)).next

/-- Two commands that branch on the same test agree when both branches do. -/
theorem AlikeNext.ite {p p' : Prop} [Decidable p] [Decidable p'] {o₁ o₂ o₁' o₂' : Outcome} (hp : p' ↔ p)
    (hpos : AlikeNext D o₁ o₁') (hneg : ¬ p → AlikeNext D o₂ o₂') :
    AlikeNext D (if p then o₁ else o₂) (if p' then o₁' else o₂') := by
  by_cases h : p
  · rwa [if_pos h, if_pos (hp.2 h)]
  · rw [if_neg h, if_neg (mt hp.1 h)]; exact hneg h

/-! ### Every command -/

theorem execInPush_alike (h : Alike D s s') : AlikeNext D (execInPush s) (execInPush s') := by
  rw [execInPush, execInPush, h.opnd]
  cases byteOperand s.opnd with
  | none => exact h.raiseIn _ _
  | some b =>
    refine .ite (by rw [h.ibufLength, h.config]) (h.raiseIn _ _) fun _ => ?_
    refine ((h.setIbuf (by simp [h.ibufLength]) fun a ha => ?_).setStatus _ _).next
    simp only [List.getElem?_append, h.ibufLength, h.ibufBytes a ha]

/-- OUT_POP looks at the length of OBUF only; the byte it takes shows in RDATA alone (R88). -/
theorem execOutPop_alike (h : Alike D s s') : AlikeNext D (execOutPop s) (execOutPop s') := by
  have hlen := h.obufLength
  unfold execOutPop
  cases hs : s.obuf with
  | nil =>
    rw [hs] at hlen
    rw [List.eq_nil_of_length_eq_zero hlen]
    exact (h.setStatus _ _).next
  | cons b rest =>
    rw [hs] at hlen
    obtain ⟨b', rest', hs'⟩ := List.exists_cons_of_length_eq_add_one hlen
    rw [hs'] at hlen ⊢
    exact ((h.setObuf (Nat.succ.inj hlen)).answer _ _).next

theorem decodeIncomplete_alike (h : Alike D s s') : AlikeNext D (decodeIncomplete s) (decodeIncomplete s') :=
  (h.invalidateMsg.setStatus _ _).next

section
variable (hD : ∀ a, RoutingOffset a → D a) {hd hd' : Header} (hsl : hd'.signatureLength = hd.signatureLength)
  (hpl : hd'.payloadLength = hd.payloadLength)
include hD hsl hpl

/-- The routed bytes and the rest of IBUF all stand behind the header (R69, R70). -/
theorem takeFrame_alike {b : Nat} (h : Alike D s s') (hb : HDR ≤ b) :
    AlikeNext D (takeFrame hd b s) (takeFrame hd' b s') := by
  have hbehind : ∀ a, HDR ≤ a → s'.ibuf[a]? = s.ibuf[a]? := fun a ha =>
    h.ibufBytes a (hD a (.inr (.inr ha)))
  have hmsg : MsgAlike (hd.toMsg (slice s.ibuf HDR b) (slice s.ibuf b (b + hd.signatureLength.toNat)))
      (hd'.toMsg (slice s'.ibuf HDR b) (slice s'.ibuf b (b + hd.signatureLength.toNat))) :=
    ⟨rfl, hsl, hpl, slice_congr hbehind, slice_congr fun k hk => hbehind k (by omega)⟩
  simp only [takeFrame, hsl]
  refine (((h.setMsg hmsg).setIbuf (by simp [h.ibufLength]) fun a _ => ?_).setStatus _ _).next
  simp only [List.getElem?_drop]
  exact hbehind _ (by omega)

theorem decodeLegacy_alike (h : Alike D s s') : AlikeNext D (decodeLegacy hd s) (decodeLegacy hd' s') := by
  simp only [decodeLegacy, hsl, h.ibufLength, h.config]
  refine .ite .rfl (h.raiseIn _ _) fun hfits => .ite .rfl (h.raiseIn _ _) fun _ => ?_
  exact takeFrame_alike hD hsl hpl h (by omega)

theorem decodeStrict_alike (h : Alike D s s') : AlikeNext D (decodeStrict hd s) (decodeStrict hd' s') := by
  simp only [decodeStrict, hsl, hpl, h.ibufLength, h.config]
  refine .ite .rfl (h.raiseIn _ _) fun _ => .ite .rfl (decodeIncomplete_alike h) fun _ => ?_
  exact takeFrame_alike hD hsl hpl h (by omega)

end

/-- DECODE reads no header byte but those of the declared lengths (R64, R75). -/
theorem execDecode_alike (hD : ∀ a, RoutingOffset a → D a) (h : Alike D s s') :
    AlikeNext D (execDecode s) (execDecode s') := by
  unfold execDecode
  cases hs : readHeader? s.ibuf with
  | none =>
    have hs' : readHeader? s'.ibuf = none := by
      rw [readHeader_eq_none, h.ibufLength]; exact (readHeader_eq_none _).1 hs
    rw [hs']
    exact decodeIncomplete_alike h
  | some hd =>
    obtain ⟨hd', hs', hsl, hpl⟩ := readHeader_congr h.ibufLength (fun a ha => h.ibufBytes a (hD a ha)) hs
    rw [hs', h.config]
    dsimp only
    cases s.config.framingMode with
    | legacy => exact decodeLegacy_alike hD hsl hpl h
    | strict => exact decodeStrict_alike hD hsl hpl h

/-- ENCODE tests the signature length and the frame size; the opaque fields reach the bytes of OBUF alone (R84). -/
theorem execEncode_alike (h : Alike D s s') : AlikeNext D (execEncode s) (execEncode s') := by
  refine .ite (by rw [h.msg.valid]) (h.raiseIn _ _) fun _ => ?_
  refine .ite (by rw [h.msg.signatureLength, h.msg.signature]) (h.invalidateMsg.setStatus _ _).next fun _ => ?_
  refine .ite (by rw [h.config, h.obufLength, h.msg.frameSize]) (h.raiseIn _ _) fun _ => ?_
  exact ((h.setObuf (by simp [h.obufLength, h.msg.frameSize])).invalidateMsg.setStatus _ _).next

theorem execMsgWr_alike (f : Selector) (h : Alike D s s') : AlikeNext D (execMsgWr f s) (execMsgWr f s') := by
  refine .ite .rfl (h.raiseIn _ _) fun _ => .ite (by rw [h.msg.valid]) (h.raiseIn _ _) fun _ => ?_
  rw [h.opnd]
  exact .ite .rfl (h.raiseIn _ _) fun _ => ((h.setMsg (h.msg.writeField f _)).setStatus _ _).next

theorem execMsgRd_alike (f : Selector) (h : Alike D s s') : AlikeNext D (execMsgRd f s) (execMsgRd f s') :=
  .ite (by rw [h.msg.valid]) (h.raiseIn _ _) fun _ => (h.answer _ _).next

theorem pushMsgByte_alike {i : Instr} {len cap : Nat} {put put' : Byte → Msg} (hput : ∀ b, MsgAlike (put b) (put' b))
    (h : Alike D s s') : AlikeNext D (pushMsgByte i len cap put s) (pushMsgByte i len cap put' s') := by
  refine .ite (by rw [h.msg.valid]) (h.raiseIn _ _) fun _ => ?_
  rw [h.opnd]
  cases byteOperand s.opnd with
  | none => exact h.raiseIn _ _
  | some b => exact .ite .rfl (h.raiseIn _ _) fun _ => ((h.setMsg (hput b)).setStatus _ _).next

theorem execMsgPushData_alike (h : Alike D s s') : AlikeNext D (execMsgPushData s) (execMsgPushData s') := by
  rw [execMsgPushData, execMsgPushData, h.config, congrArg List.length h.msg.data]
  exact pushMsgByte_alike h.msg.pushData h

theorem execMsgPushSig_alike (h : Alike D s s') : AlikeNext D (execMsgPushSig s) (execMsgPushSig s') := by
  rw [execMsgPushSig, execMsgPushSig, h.config, congrArg List.length h.msg.signature]
  exact pushMsgByte_alike h.msg.pushSignature h

theorem readMsgByte_alike (i : Instr) {field field' : List Byte} (hfield : field' = field) (h : Alike D s s') :
    AlikeNext D (readMsgByte i field s) (readMsgByte i field' s') := by
  refine .ite (by rw [h.msg.valid]) (h.raiseIn _ _) fun _ => ?_
  rw [h.opnd, hfield]
  cases field[indexOperand s.opnd]? with
  | none => exact h.raiseIn _ _
  | some b => exact (h.answer _ _).next

/-- States that agree but for the opaque fields stay so under every command (R5). -/
theorem exec_alike (hD : ∀ a, RoutingOffset a → D a) (i : Instr) (h : Alike D s s') :
    AlikeNext D (exec i s) (exec i s') := by
  cases i with
  | decode => exact execDecode_alike hD h
  | encode => exact execEncode_alike h
  | inPush => exact execInPush_alike h
  | inLen | outLen => exact (h.answer _ _).next
  | outPop => exact execOutPop_alike h
  | msgNew => exact ((h.setMsg (.refl Msg.fresh)).setStatus _ _).next
  | msgWr f => exact execMsgWr_alike f h
  | msgRd f => exact execMsgRd_alike f h
  | msgPushData => exact execMsgPushData_alike h
  | msgPushSig => exact execMsgPushSig_alike h
  | msgRdData => exact readMsgByte_alike _ h.msg.data h
  | msgRdSig => exact readMsgByte_alike _ h.msg.signature h

/-- A command that answers a state answers one that agrees with it, from any start that agrees with its own. -/
theorem exec_alike_next (hD : ∀ a, RoutingOffset a → D a) {i : Instr} {t : State} (h : Alike D s s')
    (ht : exec i s = .next t) : ∃ u, exec i s' = .next u ∧ Alike D t u := by
  obtain ⟨t₀, u, ht₀, hu, halike⟩ := exec_alike hD i h
  rw [ht] at ht₀
  cases ht₀
  exact ⟨u, hu, halike⟩

end

/-- Other values in the four fields of MSG leave every other part of the state as it is. -/
theorem withOpaque_alike (D : Nat → Prop) (s : State) (ver : Byte) (mt sid enc : Word16) :
    Alike D s { s with msg := withOpaque s.msg ver mt sid enc } :=
  ⟨rfl, rfl, rfl, rfl, rfl, fun _ _ => rfl, rfl, ⟨rfl, rfl, rfl, rfl, rfl⟩⟩

/-- Settles O22: the two starts agree with every byte of IBUF the same, and commands keep such agreement. -/
theorem opaqueMessageFieldsDecideNothing : Obligations.OpaqueMessageFieldsDecideNothing := by
  intro i s t ver mt sid enc ht
  obtain ⟨u, hu, h⟩ := exec_alike_next (fun _ _ => trivial) (withOpaque_alike (fun _ => True) s ver mt sid enc) ht
  have hibuf : u.ibuf = t.ibuf := List.ext_getElem? fun a => h.ibufBytes a trivial
  exact ⟨u, hu, h.status, h.fault, hibuf, h.obufLength, h.msg.valid, h.msg.data, h.msg.signature,
    h.msg.signatureLength, h.msg.payloadLength⟩

/-- Settles O23: the two starts agree with the IBUF bytes the same at the routing offsets, and DECODE keeps such
agreement. -/
theorem decodeIgnoresOpaqueHeaderBytes : Obligations.DecodeIgnoresOpaqueHeaderBytes := by
  intro s t other hlen hbytes ht
  have hstart : Alike RoutingOffset s { s with ibuf := other } :=
    ⟨rfl, rfl, rfl, rfl, hlen, hbytes, rfl, .refl s.msg⟩
  obtain ⟨u, hu, h⟩ := exec_alike_next (fun _ ha => ha) hstart ht
  exact ⟨u, hu, h.status, h.fault, h.ibufLength, h.msg.data, h.msg.signature⟩

end Sys2Proof.Proofs

/-! PROOFS. One step and one host action (spec 10_state R30, 70 R114, R125). -/

namespace Sys2Proof.Proofs

open Sys2Proof.Machine Sys2Proof.Laws

theorem step_of_empty {s : State} (h : s.hostQueue = []) : step s = .next s := by
  rw [step, nextAction?, h]; rfl

/-- A step takes the host's next action off the queue and performs it. -/
theorem step_of_cons {s : State} {a : HostAction} {rest : List HostAction} (h : s.hostQueue = a :: rest) :
    step s = runAction a { s with hostQueue := rest } := by
  rw [step, nextAction?, h]

/-- RDATA has a value exactly while STATUS.RDV = 1 (R26). -/
theorem rdata?_of_rdv {s : State} (h : statusRdv s.status = true) : s.rdata? = some s.rdata := if_pos h

theorem rdata?_eq_none {s : State} : s.rdata? = none ↔ statusRdv s.status = false := by
  simp [State.rdata?]

end Sys2Proof.Proofs

/-! PROOFS. The bits of MSG while MSG.valid = 0 and of RDATA while STATUS.RDV = 0 show in no outcome (spec 10_state R23,
R26): two states with the same view keep it under every register update, so under every command and every host action. -/

namespace Sys2Proof.Machine.SameView

open Sys2Proof.Laws Sys2Proof.Proofs

variable {s t : State}

theorem refl (s : State) : SameView s s := ⟨rfl, rfl, fun _ => rfl, fun _ => rfl⟩

/-! ### What both states hold alike -/

theorem config (h : SameView s t) : t.config = s.config := by rw [h.1]
theorem ibuf (h : SameView s t) : t.ibuf = s.ibuf := by rw [h.1]
theorem obuf (h : SameView s t) : t.obuf = s.obuf := by rw [h.1]
theorem opnd (h : SameView s t) : t.opnd = s.opnd := by rw [h.1]
theorem status (h : SameView s t) : t.status = s.status := by rw [h.1]
theorem fault (h : SameView s t) : t.fault = s.fault := by rw [h.1]
theorem hostQueue (h : SameView s t) : t.hostQueue = s.hostQueue := by rw [h.1]
theorem hostData (h : SameView s t) : t.hostData = s.hostData := by rw [h.1]
theorem valid (h : SameView s t) : t.msg.valid = s.msg.valid := h.2.1
theorem msg (h : SameView s t) (hv : s.msg.valid = true) : t.msg = s.msg := h.2.2.1 hv

theorem faulted (h : SameView s t) : t.faulted = s.faulted := congrArg faultF h.fault

/-- A value of RDATA shows in both states, or in neither. -/
theorem rdata? (h : SameView s t) : t.rdata? = s.rdata? := by
  rw [State.rdata?, State.rdata?, h.status]
  split
  · rw [h.2.2.2 ‹_›]
  · rfl

/-- The second state is the first with other bits in MSG and RDATA. -/
theorem exists_eq (h : SameView s t) : ∃ m r, t = { s with msg := m, rdata := r } ∧ m.valid = s.msg.valid ∧
    (s.msg.valid = true → m = s.msg) ∧ (statusRdv s.status = true → r = s.rdata) :=
  ⟨t.msg, t.rdata, h⟩

/-! ### The register updates keep the view -/

/-- Where RDV becomes 0, RDATA no longer matters. -/
theorem setStatus (h : SameView s t) (c : Byte) : SameView (s.setStatus c false) (t.setStatus c false) := by
  obtain ⟨m, r, rfl, hv, hm, -⟩ := h.exists_eq
  exact ⟨rfl, hv, hm, by simp⟩

theorem raise (h : SameView s t) (c : Cause) (w : Word16) : SameView (s.raise c w) (t.raise c w) := by
  obtain ⟨m, r, rfl, hv, hm, -⟩ := h.exists_eq
  exact ⟨rfl, hv, hm, by simp⟩

theorem answer (h : SameView s t) (v : Word32) : SameView (s.answer v) (t.answer v) := by
  obtain ⟨m, r, rfl, hv, hm, -⟩ := h.exists_eq
  exact ⟨rfl, hv, hm, fun _ => rfl⟩

theorem setMsg (h : SameView s t) (m : Msg) : SameView (s.setMsg m) (t.setMsg m) := by
  obtain ⟨_, r, rfl, -, -, hr⟩ := h.exists_eq
  exact ⟨rfl, rfl, fun _ => rfl, hr⟩

/-- Where MSG.valid becomes 0, the other fields of MSG no longer matter. -/
theorem invalidateMsg (h : SameView s t) : SameView s.invalidateMsg t.invalidateMsg := by
  obtain ⟨m, r, rfl, -, -, hr⟩ := h.exists_eq
  exact ⟨rfl, rfl, by simp, hr⟩

theorem setIbuf (h : SameView s t) (b : List Byte) : SameView (s.setIbuf b) (t.setIbuf b) := by
  obtain ⟨m, r, rfl, hkept⟩ := h.exists_eq
  exact ⟨rfl, hkept⟩

theorem setObuf (h : SameView s t) (b : List Byte) : SameView (s.setObuf b) (t.setObuf b) := by
  obtain ⟨m, r, rfl, hkept⟩ := h.exists_eq
  exact ⟨rfl, hkept⟩

theorem setOpnd (h : SameView s t) (v : Word32) : SameView (s.setOpnd v) (t.setOpnd v) := by
  obtain ⟨m, r, rfl, hkept⟩ := h.exists_eq
  exact ⟨rfl, hkept⟩

theorem setHostData (h : SameView s t) (v : Word32) : SameView (s.setHostData v) (t.setHostData v) := by
  obtain ⟨m, r, rfl, hkept⟩ := h.exists_eq
  exact ⟨rfl, hkept⟩

theorem advanceHostPc (h : SameView s t) : SameView s.advanceHostPc t.advanceHostPc := by
  obtain ⟨m, r, rfl, hkept⟩ := h.exists_eq
  exact ⟨rfl, hkept⟩

theorem setHostQueue (h : SameView s t) (q : List HostAction) :
    SameView { s with hostQueue := q } { t with hostQueue := q } := by
  obtain ⟨m, r, rfl, hkept⟩ := h.exists_eq
  exact ⟨rfl, hkept⟩

/-- Reset leaves no difference at all. -/
theorem hostReset (h : SameView s t) : SameView s.hostReset t.hostReset := by
  have heq : t.hostReset = s.hostReset := by
    rw [State.hostReset, State.hostReset, h.config, h.hostQueue, h.hostData]
  rw [heq]
  exact refl _

theorem raiseIn (h : SameView s t) (i : Instr) (c : Cause) : SameOutcome (raiseIn i c s) (raiseIn i c t) :=
  h.raise c (encode i)

end Sys2Proof.Machine.SameView

namespace Sys2Proof.Machine.SameOutcome

/-- One test that decides both ends. -/
theorem ite {p : Prop} [Decidable p] {a b a' b' : Outcome} (hpos : SameOutcome a a')
    (hneg : SameOutcome b b') : SameOutcome (if p then a else b) (if p then a' else b') := by
  by_cases h : p
  · rwa [if_pos h, if_pos h]
  · rwa [if_neg h, if_neg h]

/-- The key of the argument: a command that reads MSG first raises MSG_INVALID while its fields are hidden (R23), so past
that test both states hold the same MSG. -/
theorem ofValidMsg {s t : State} {a b : Outcome} (i : Instr) (h : SameView s t)
    (hvalid : t.msg = s.msg → SameOutcome a b) :
    SameOutcome (if s.msg.valid = false then raiseIn i .msgInvalid s else a)
      (if t.msg.valid = false then raiseIn i .msgInvalid t else b) := by
  rw [h.valid]
  cases hv : s.msg.valid with
  | false => exact h.raiseIn i _
  | true => exact hvalid (h.msg hv)

end Sys2Proof.Machine.SameOutcome

namespace Sys2Proof.Proofs

open Sys2Proof.Machine Sys2Proof.Laws

section
variable {s t : State}

/-! ### The commands -/

theorem execInPush_sameOutcome (h : SameView s t) : SameOutcome (execInPush s) (execInPush t) := by
  rw [execInPush, execInPush, h.opnd, h.ibuf, h.config]
  cases byteOperand s.opnd with
  | none => exact h.raiseIn _ _
  | some b => exact .ite (h.raiseIn _ _) ((h.setIbuf _).setStatus _)

theorem execOutPop_sameOutcome (h : SameView s t) : SameOutcome (execOutPop s) (execOutPop t) := by
  rw [execOutPop, execOutPop, h.obuf]
  cases s.obuf with
  | nil => exact h.setStatus _
  | cons b rest => exact (h.setObuf rest).answer _

theorem takeFrame_sameOutcome (hd : Header) (b : Nat) (h : SameView s t) :
    SameOutcome (takeFrame hd b s) (takeFrame hd b t) := by
  rw [takeFrame, takeFrame, h.ibuf]
  exact ((h.setMsg _).setIbuf _).setStatus _

/-- DECODE reads IBUF and the configuration; MSG it only writes (R75). -/
theorem execDecode_sameOutcome (h : SameView s t) : SameOutcome (execDecode s) (execDecode t) := by
  have hwait : SameOutcome (decodeIncomplete s) (decodeIncomplete t) := h.invalidateMsg.setStatus _
  rw [execDecode, execDecode, h.ibuf, h.config]
  cases readHeader? s.ibuf with
  | none => exact hwait
  | some hd =>
    cases s.config.framingMode with
    | legacy =>
      simp only [decodeLegacy, h.ibuf, h.config]
      exact .ite (h.raiseIn _ _) (.ite (h.raiseIn _ _) (takeFrame_sameOutcome hd _ h))
    | strict =>
      simp only [decodeStrict, h.ibuf, h.config]
      exact .ite (h.raiseIn _ _) (.ite hwait (takeFrame_sameOutcome hd _ h))

theorem execEncode_sameOutcome (h : SameView s t) : SameOutcome (execEncode s) (execEncode t) := by
  refine .ofValidMsg _ h fun hmsg => ?_
  rw [hmsg, h.config, h.obuf]
  refine .ite (h.invalidateMsg.setStatus _) (.ite (h.raiseIn _ _) ?_)
  exact (h.setObuf _).invalidateMsg.setStatus _

theorem execMsgWr_sameOutcome (f : Selector) (h : SameView s t) : SameOutcome (execMsgWr f s) (execMsgWr f t) := by
  refine .ite (h.raiseIn _ _) (.ofValidMsg _ h fun hmsg => ?_)
  rw [hmsg, h.opnd]
  exact .ite (h.raiseIn _ _) ((h.setMsg _).setStatus _)

theorem execMsgRd_sameOutcome (f : Selector) (h : SameView s t) : SameOutcome (execMsgRd f s) (execMsgRd f t) := by
  refine .ofValidMsg _ h fun hmsg => ?_
  rw [hmsg]
  exact h.answer _

theorem pushMsgByte_sameOutcome (i : Instr) (len : Msg → Nat) (cap : Config → Nat) (put : Msg → Byte → Msg)
    (h : SameView s t) :
    SameOutcome (pushMsgByte i (len s.msg) (cap s.config) (put s.msg) s)
      (pushMsgByte i (len t.msg) (cap t.config) (put t.msg) t) := by
  refine .ofValidMsg _ h fun hmsg => ?_
  rw [hmsg, h.config, h.opnd]
  cases byteOperand s.opnd with
  | none => exact h.raiseIn _ _
  | some b => exact .ite (h.raiseIn _ _) ((h.setMsg _).setStatus _)

theorem readMsgByte_sameOutcome (i : Instr) (field : Msg → List Byte) (h : SameView s t) :
    SameOutcome (readMsgByte i (field s.msg) s) (readMsgByte i (field t.msg) t) := by
  refine .ofValidMsg _ h fun hmsg => ?_
  rw [hmsg, h.opnd]
  cases (field s.msg)[indexOperand s.opnd]? with
  | none => exact h.raiseIn _ _
  | some b => exact h.answer _

theorem exec_sameOutcome (i : Instr) (h : SameView s t) : SameOutcome (exec i s) (exec i t) := by
  cases i with
  | decode => exact execDecode_sameOutcome h
  | encode => exact execEncode_sameOutcome h
  | inPush => exact execInPush_sameOutcome h
  | inLen => rw [exec, exec, execInLen, execInLen, h.ibuf]; exact h.answer _
  | outPop => exact execOutPop_sameOutcome h
  | outLen => rw [exec, exec, execOutLen, execOutLen, h.obuf]; exact h.answer _
  | msgNew => exact (h.setMsg _).setStatus _
  | msgWr f => exact execMsgWr_sameOutcome f h
  | msgRd f => exact execMsgRd_sameOutcome f h
  | msgPushData =>
    exact pushMsgByte_sameOutcome _ (·.data.length) (·.msgDataCap) (fun m b => { m with data := m.data ++ [b] }) h
  | msgPushSig =>
    exact pushMsgByte_sameOutcome _ (·.signature.length) (·.msgSigCap)
      (fun m b => { m with signature := m.signature ++ [b] }) h
  | msgRdData => exact readMsgByte_sameOutcome _ (·.data) h
  | msgRdSig => exact readMsgByte_sameOutcome _ (·.signature) h

/-! ### The host's actions -/

theorem issueCommand_sameOutcome (w : Word16) (h : SameView s t) :
    SameOutcome (issueCommand w s) (issueCommand w t) := by
  have h' := h.advanceHostPc
  simp only [issueCommand, h'.faulted]
  refine .ite h' ?_
  cases decode w with
  | error e => exact h'.raise _ _
  | ok i => exact exec_sameOutcome i h'

/-- The host sees RDATA only while both states hold a value there, the same one (R26). -/
theorem hostRead_sameOutcome (r : HostReg) (h : SameView s t) : SameOutcome (hostRead r s) (hostRead r t) := by
  cases r with
  | cw => rfl
  | opnd => rw [hostRead, hostRead, h.opnd]; exact h.setHostData _
  | status => rw [hostRead, hostRead, h.status]; exact h.setHostData _
  | fault => rw [hostRead, hostRead, h.fault]; exact h.setHostData _
  | rdata =>
    simp only [hostRead, h.rdata?]
    cases s.rdata? with
    | none => rfl
    | some v => exact h.setHostData v

theorem hostCopyRdata_sameOutcome (h : SameView s t) : SameOutcome (hostCopyRdata s) (hostCopyRdata t) := by
  rw [hostCopyRdata, hostCopyRdata, h.rdata?]
  cases s.rdata? with
  | none => rfl
  | some v => exact (h.setHostData v).setOpnd v

theorem runAction_sameOutcome (a : HostAction) (h : SameView s t) : SameOutcome (runAction a s) (runAction a t) := by
  cases a with
  | writeCw w => exact issueCommand_sameOutcome w h
  | writeOpnd v => exact h.setOpnd v
  | copyRdata => exact hostCopyRdata_sameOutcome h
  | read r => exact hostRead_sameOutcome r h
  | writeReadOnly r v => rfl
  | reset => exact h.hostReset

end

/-- Settles O15: both hosts idle or perform the same action, and every action keeps the view. -/
theorem hiddenValuesNeverShow : Obligations.HiddenValuesNeverShow := by
  intro s t h
  cases hq : s.hostQueue with
  | nil => rw [step_of_empty hq, step_of_empty (h.hostQueue.trans hq)]; exact h
  | cons a rest =>
    rw [step_of_cons hq, step_of_cons (h.hostQueue.trans hq)]
    exact runAction_sameOutcome a (h.setHostQueue rest)

end Sys2Proof.Proofs

/-! PROOFS. What each command does to the whole state, said once as a relation: the frames and the rules of STATUS and
MSG.valid are read off it (spec 10_state R16 to R30). -/

namespace Sys2Proof.Proofs

open Sys2Proof.Machine Sys2Proof.Spec Sys2Proof.Laws

/-- The next states a command can answer: one constructor per end of a command (R101, R63, R69 and R70, R83, R81, R86, R88,
R90, R91, R93, R94, R26). -/
inductive Effect : Instr → State → State → Prop
  | raise {i : Instr} {s : State} (c : Cause) : Effect i s (s.raise c (encode i))
  | incomplete {s : State} : Effect .decode s (s.invalidateMsg.finish .incomplete)
  | takeFrame {s : State} {hd : Header} {b : Nat} (hb : b + hd.signatureLength.toNat ≤ s.ibuf.length) :
      Effect .decode s (((s.setMsg (hd.toMsg (slice s.ibuf HDR b)
        (slice s.ibuf b (b + hd.signatureLength.toNat)))).setIbuf
        (s.ibuf.drop (HDR + (b - HDR) + hd.signatureLength.toNat))).finish .ok)
  | validationError {s : State} : Effect .encode s (s.invalidateMsg.finish .validationError)
  | appendFrame {s : State} : Effect .encode s ((s.setObuf (s.obuf ++ frameOf s.msg)).invalidateMsg.finish .ok)
  | pushIn {s : State} (b : Byte) : Effect .inPush s ((s.setIbuf (s.ibuf ++ [b])).finish .ok)
  | empty {s : State} (h : s.obuf = []) : Effect .outPop s (s.finish .empty)
  | popOut {s : State} {b : Byte} {rest : List Byte} (h : s.obuf = b :: rest) :
      Effect .outPop s ((s.setObuf rest).answer (b.setWidth 32))
  | msgNew {s : State} : Effect .msgNew s ((s.setMsg Msg.fresh).finish .ok)
  | msgWr {s : State} (f : Selector) : Effect (.msgWr f) s ((s.setMsg (s.msg.writeField f s.opnd)).finish .ok)
  | pushData {s : State} (b : Byte) :
      Effect .msgPushData s ((s.setMsg { s.msg with data := s.msg.data ++ [b] }).finish .ok)
  | pushSig {s : State} (b : Byte) :
      Effect .msgPushSig s ((s.setMsg { s.msg with signature := s.msg.signature ++ [b] }).finish .ok)
  | answer {i : Instr} {s : State} (hr : writesRdata i = true) (v : Word32) :
      Effect i s (s.answer v)

section
variable {i : Instr} {s t : State}

theorem raiseIn_effect {c : Cause} (h : raiseIn i c s = .next t) : Effect i s t := by
  rw [raiseIn_next h]; exact .raise c

theorem takeFrame_effect {hd : Header} {b : Nat} (hb : b + hd.signatureLength.toNat ≤ s.ibuf.length)
    (h : takeFrame hd b s = .next t) : Effect .decode s t := by
  rw [takeFrame_next h]; exact .takeFrame hb

theorem execDecode_effect (h : execDecode s = .next t) : Effect .decode s t := by
  unfold execDecode at h
  split at h
  · rw [decodeIncomplete_next h]; exact .incomplete
  · split at h
    · obtain ⟨-, rfl⟩ | ⟨-, -, rfl⟩ | ⟨hn, -, -, ht⟩ := decodeLegacy_next h
      · exact .raise _
      · exact .raise _
      · exact takeFrame_effect (by omega) ht
    · obtain ⟨-, rfl⟩ | ⟨-, rfl⟩ | ⟨hn, -, -, ht⟩ := decodeStrict_next h
      · exact .raise _
      · exact .incomplete
      · exact takeFrame_effect hn ht

theorem execEncode_effect (h : execEncode s = .next t) : Effect .encode s t := by
  unfold execEncode at h
  split at h
  · exact raiseIn_effect h
  · split at h
    · cases h; exact .validationError
    · split at h
      · exact raiseIn_effect h
      · cases h; exact .appendFrame

theorem execInPush_effect (h : execInPush s = .next t) : Effect .inPush s t := by
  unfold execInPush at h
  split at h
  · exact raiseIn_effect h
  · split at h
    · exact raiseIn_effect h
    · cases h; exact .pushIn _

/-- OUT_POP finds OBUF empty, or takes its oldest byte (R88). -/
theorem execOutPop_next (h : execOutPop s = .next t) :
    (s.obuf = [] ∧ t = s.finish .empty) ∨
    ∃ b rest, s.obuf = b :: rest ∧ t = (s.setObuf rest).answer (b.setWidth 32) := by
  unfold execOutPop at h
  split at h
  · cases h; exact .inl ⟨‹_›, rfl⟩
  · cases h; exact .inr ⟨_, _, ‹_›, rfl⟩

theorem execOutPop_effect (h : execOutPop s = .next t) : Effect .outPop s t := by
  obtain ⟨hempty, rfl⟩ | ⟨b, rest, hcons, rfl⟩ := execOutPop_next h
  · exact .empty hempty
  · exact .popOut hcons

theorem execMsgWr_effect {f : Selector} (h : execMsgWr f s = .next t) : Effect (.msgWr f) s t := by
  unfold execMsgWr at h
  split at h
  · exact raiseIn_effect h
  · split at h
    · exact raiseIn_effect h
    · split at h
      · exact raiseIn_effect h
      · cases h; exact .msgWr f

theorem execMsgRd_effect {f : Selector} (h : execMsgRd f s = .next t) : Effect (.msgRd f) s t := by
  unfold execMsgRd at h
  split at h
  · exact raiseIn_effect h
  · cases h; exact .answer rfl _

theorem pushMsgByte_effect {len cap : Nat} {put : Byte → Msg} (hput : ∀ b, Effect i s ((s.setMsg (put b)).finish .ok))
    (h : pushMsgByte i len cap put s = .next t) : Effect i s t := by
  obtain ⟨-, rfl⟩ | ⟨-, -, rfl⟩ | ⟨-, -, rfl⟩ | ⟨-, -, b, -, rfl⟩ := pushMsgByte_next h
  · exact .raise _
  · exact .raise _
  · exact .raise _
  · exact hput b

theorem readMsgByte_effect {field : List Byte} (hr : writesRdata i = true)
    (h : readMsgByte i field s = .next t) : Effect i s t := by
  obtain ⟨-, rfl⟩ | ⟨-, -, rfl⟩ | ⟨-, b, -, rfl⟩ := readMsgByte_next h
  · exact .raise _
  · exact .raise _
  · exact .answer hr _

/-- Every state a command answers is one of its listed ends. -/
theorem exec_effect (h : exec i s = .next t) : Effect i s t := by
  cases i with
  | decode => exact execDecode_effect h
  | encode => exact execEncode_effect h
  | inPush => exact execInPush_effect h
  | inLen | outLen => cases h; exact .answer rfl _
  | outPop => exact execOutPop_effect h
  | msgNew => cases h; exact .msgNew
  | msgWr f => exact execMsgWr_effect h
  | msgRd f => exact execMsgRd_effect h
  | msgPushData => exact pushMsgByte_effect .pushData h
  | msgPushSig => exact pushMsgByte_effect .pushSig h
  | msgRdData => exact readMsgByte_effect rfl h
  | msgRdSig => exact readMsgByte_effect rfl h

/-! ### STATUS -/

theorem statusWord_cause_ne_zero (c : Cause) : statusWord c.byte false ≠ 0x0000 := by
  cases c <;> decide

theorem statusWord_ok : statusWord Code.ok.byte false = 0x0000 := by decide

theorem statusWord_incomplete : statusWord Code.incomplete.byte false = 0x0001 := by decide

theorem statusWord_validationError : statusWord Code.validationError.byte false = 0x0002 := by decide

/-- STATUS holds the cause of a raise, or a code of R98 with RDV = 1 exactly for OK from a command with a result (R26). -/
theorem Effect.status (h : Effect i s t) : (∃ c : Cause, t.status = statusWord c.byte false) ∨
    ∃ c : Code, t.status = statusWord c.byte (writesRdata i && decide (c = .ok)) := by
  cases h with
  | raise c => exact .inl ⟨c, rfl⟩
  | incomplete => exact .inr ⟨.incomplete, rfl⟩
  | validationError => exact .inr ⟨.validationError, rfl⟩
  | empty => exact .inr ⟨.empty, rfl⟩
  | answer hr => exact .inr ⟨.ok, by rw [hr]; rfl⟩
  | takeFrame | appendFrame | pushIn | popOut | msgNew | msgWr | pushData | pushSig => exact .inr ⟨.ok, rfl⟩

theorem Cause.byte_ne_ok (c : Cause) : c.byte ≠ 0x00 := by cases c <;> decide

theorem Code.byte_eq_ok (c : Code) : c.byte = 0x00 ↔ c = .ok := by cases c <;> decide

theorem Effect.rdv_iff (h : Effect i s t) :
    statusRdv t.status = true ↔ writesRdata i = true ∧ statusCode t.status = 0x00 := by
  obtain ⟨c, hc⟩ | ⟨c, hc⟩ := h.status
  · simp only [hc, statusRdv_statusWord, statusCode_statusWord, Cause.byte_ne_ok, Bool.false_eq_true, and_false]
  · simp only [hc, statusRdv_statusWord, statusCode_statusWord, Code.byte_eq_ok, Bool.and_eq_true, decide_eq_true_eq]

end

/-- Settles O19: STATUS after each end of a command, and RDATA has a value exactly while RDV = 1. -/
theorem resultIsValidExactlyAfterReadingCommands : Obligations.ResultIsValidExactlyAfterReadingCommands := by
  intro i s t h
  have hrdv := (exec_effect h).rdv_iff
  refine ⟨hrdv, ?_⟩
  rw [rdata?_eq_none, ← Bool.not_eq_true, hrdv, not_and_or, Bool.not_eq_true]

/-- Settles O17: each end of a command writes the registers its command names. -/
theorem frameOfEveryCommand : Obligations.FrameOfEveryCommand := by
  intro i s t h
  cases exec_effect h with
  | raise c => exact ⟨rfl, rfl, rfl, rfl, rfl, fun _ _ => rfl, fun _ _ => rfl, fun _ => rfl, fun _ => rfl, .inr rfl⟩
  | answer hr =>
    exact ⟨rfl, rfl, rfl, rfl, rfl, fun _ _ => rfl, fun _ _ => rfl, fun _ => rfl, by simp [hr], .inl rfl⟩
  | _ => refine ⟨rfl, rfl, rfl, rfl, rfl, ?_, ?_, ?_, ?_, .inl rfl⟩ <;> simp [writesMsg, writesRdata]

/-- Settles O21: MSG_NEW and the frame taken set MSG.valid, INCOMPLETE and the two ends of ENCODE clear it, every other end
of a command keeps it. -/
theorem msgValidityChangesOnlyAsListed : Obligations.MsgValidityChangesOnlyAsListed := by
  intro i s t h hne
  cases exec_effect h with
  | msgNew => exact .inl ⟨rfl, statusWord_ok, .inl rfl⟩
  | takeFrame => exact .inl ⟨rfl, statusWord_ok, .inr rfl⟩
  | incomplete => exact .inr ⟨rfl, .inl ⟨rfl, statusWord_incomplete⟩⟩
  | appendFrame => exact .inr ⟨rfl, .inr ⟨rfl, .inl statusWord_ok⟩⟩
  | validationError => exact .inr ⟨rfl, .inr ⟨rfl, .inr statusWord_validationError⟩⟩
  | msgWr f => exact absurd (by cases f <;> rfl) hne
  | _ => exact absurd rfl hne

/-! ### The byte spaces -/

section
variable {s t : State}

theorem inPush_byteFrame (h : exec .inPush s = .next t) :
    t.obuf = s.obuf ∧ ∀ a < s.ibuf.length, t.ibuf[a]? = s.ibuf[a]? := by
  cases exec_effect h with
  | raise c => exact ⟨rfl, fun _ _ => rfl⟩
  | pushIn b => exact ⟨rfl, fun a ha => List.getElem?_append_left ha⟩
  | answer hr => cases hr

theorem encode_byteFrame (h : exec .encode s = .next t) :
    t.ibuf = s.ibuf ∧ ∀ a < s.obuf.length, t.obuf[a]? = s.obuf[a]? := by
  cases exec_effect h with
  | raise c => exact ⟨rfl, fun _ _ => rfl⟩
  | validationError => exact ⟨rfl, fun _ _ => rfl⟩
  | appendFrame => exact ⟨rfl, fun a ha => List.getElem?_append_left ha⟩
  | answer hr => cases hr

theorem outPop_byteFrame (h : exec .outPop s = .next t) :
    t.ibuf = s.ibuf ∧ ∀ a : Nat, t.obuf[a]? = s.obuf[a + 1]? := by
  obtain ⟨hempty, rfl⟩ | ⟨b, rest, hcons, rfl⟩ := execOutPop_next h
  · exact ⟨rfl, fun a => by simp [hempty]⟩
  · exact ⟨rfl, fun a => by simp [hcons]⟩

/-- The frame taken is as long as the header and the two byte fields it was routed to (R69, R70). -/
theorem takeFrame_length {buf : List Byte} {hd : Header} {b : Nat} (hb : b + hd.signatureLength.toNat ≤ buf.length) :
    15 + (slice buf HDR b).length + (slice buf b (b + hd.signatureLength.toNat)).length =
      HDR + (b - HDR) + hd.signatureLength.toNat := by
  rw [slice_length (by omega), slice_length hb, HDR_eq]
  omega

theorem decode_byteFrame (h : exec .decode s = .next t) :
    t.obuf = s.obuf ∧ ((t.status ≠ 0x0000 ∧ ∀ a : Nat, t.ibuf[a]? = s.ibuf[a]?) ∨
      (t.status = 0x0000 ∧ ∀ a : Nat, t.ibuf[a]? = s.ibuf[a + (15 + t.msg.data.length + t.msg.signature.length)]?)) := by
  cases exec_effect h with
  | raise c => exact ⟨rfl, .inl ⟨statusWord_cause_ne_zero c, fun _ => rfl⟩⟩
  | incomplete => exact ⟨rfl, .inl ⟨by rw [State.finish_status, statusWord_incomplete]; decide, fun _ => rfl⟩⟩
  | takeFrame hb =>
    refine ⟨rfl, .inr ⟨statusWord_ok, fun a => ?_⟩⟩
    have hshift := takeFrame_length hb
    simp only [State.finish_ibuf, State.setIbuf_ibuf, State.finish_msg, State.setIbuf_msg, State.setMsg_msg,
      Header.toMsg, hshift, List.getElem?_drop, Nat.add_comm a]
  | answer hr => cases hr

end

/-- Settles O18: IN_PUSH and ENCODE append, OUT_POP takes the first byte, DECODE drops the frame it takes. -/
theorem frameOfTheByteSpaces : Obligations.FrameOfTheByteSpaces := fun _ _ =>
  ⟨inPush_byteFrame, encode_byteFrame, outPop_byteFrame, decode_byteFrame⟩

end Sys2Proof.Proofs

/-! PROOFS. The host's actions (spec 10_state R18, R24 to R30): what each one does, which of them stop the machine, and how
they move the host's command index. -/

namespace Sys2Proof.Proofs

open Sys2Proof.Machine Sys2Proof.Spec Sys2Proof.Laws

/-! ### Accesses to RDATA -/

theorem hostRead_rdata_of_rdv {s : State} (h : statusRdv s.status = true) :
    hostRead .rdata s = .next (s.setHostData s.rdata) := by
  rw [hostRead, rdata?_of_rdv h]

theorem hostRead_rdata_of_not_rdv {s : State} (h : statusRdv s.status = false) :
    hostRead .rdata s = .fault .rdataHoldsNoValue := by
  rw [hostRead, rdata?_eq_none.2 h]

theorem hostCopyRdata_of_rdv {s : State} (h : statusRdv s.status = true) :
    hostCopyRdata s = .next ((s.setHostData s.rdata).setOpnd s.rdata) := by
  rw [hostCopyRdata, rdata?_of_rdv h]

theorem hostCopyRdata_of_not_rdv {s : State} (h : statusRdv s.status = false) :
    hostCopyRdata s = .fault .rdataHoldsNoValue := by
  rw [hostCopyRdata, rdata?_eq_none.2 h]

/-- Settles O4: each access is one host action, taken off the queue and performed. -/
theorem hostAccessTable : Obligations.HostAccessTable := by
  intro s rest v
  refine ⟨step_of_cons, step_of_cons, step_of_cons, step_of_cons, fun hq hrdv => ?_, fun hq hrdv => ?_,
    fun hq hrdv => ?_, fun hq hrdv => ?_, step_of_cons, fun r => step_of_cons⟩
  · exact (step_of_cons hq).trans (hostRead_rdata_of_rdv hrdv)
  · exact (step_of_cons hq).trans (hostRead_rdata_of_not_rdv hrdv)
  · exact (step_of_cons hq).trans (hostCopyRdata_of_rdv hrdv)
  · exact (step_of_cons hq).trans (hostCopyRdata_of_not_rdv hrdv)

/-! ### Stops -/

/-- No command stops the machine (R100): it answers a state, as any two starts that agree on what it reads show. -/
theorem exec_answers (i : Instr) (s : State) : ∃ t, exec i s = .next t := by
  have hself : Alike (fun _ => True) s s := ⟨rfl, rfl, rfl, rfl, rfl, fun _ _ => rfl, rfl, .refl s.msg⟩
  obtain ⟨t, -, ht, -⟩ := exec_alike (fun _ _ => trivial) i hself
  exact ⟨t, ht⟩

/-- No CW write stops the machine (R56, R102). -/
theorem issueCommand_answers (w : Word16) (s : State) : ∃ t, issueCommand w s = .next t := by
  dsimp only [issueCommand]
  split
  · exact ⟨_, rfl⟩
  · split
    · exact ⟨_, rfl⟩
    · exact exec_answers _ _

/-- Only an access to RDATA without a value faults (R26). -/
theorem runAction_eq_fault {a : HostAction} {s : State} {f : Fault} : runAction a s = .fault f ↔
    f = .rdataHoldsNoValue ∧ statusRdv s.status = false ∧ (a = .read .rdata ∨ a = .copyRdata) := by
  cases a with
  | writeCw w =>
    obtain ⟨t, ht⟩ := issueCommand_answers w s
    simp [runAction, ht]
  | copyRdata =>
    cases h : statusRdv s.status with
    | true => simp [runAction, hostCopyRdata_of_rdv h]
    | false => simp [runAction, hostCopyRdata_of_not_rdv h]
  | read r =>
    cases r with
    | rdata =>
      cases h : statusRdv s.status with
      | true => simp [runAction, hostRead_rdata_of_rdv h]
      | false => simp [runAction, hostRead_rdata_of_not_rdv h, eq_comm]
    | cw | opnd | status | fault => simp [runAction, hostRead]
  | writeOpnd | writeReadOnly | reset => simp [runAction]

/-- Only a read of CW and a write of a read-only register are refused (R24, R30). -/
theorem runAction_eq_refused {a : HostAction} {s : State} {r : Refusal} : runAction a s = .refused r ↔
    (a = .read .cw ∧ r = .commandPortRead) ∨ ∃ q v, a = .writeReadOnly q v ∧ r = .readOnlyWrite q := by
  cases a with
  | writeCw w =>
    obtain ⟨t, ht⟩ := issueCommand_answers w s
    simp [runAction, ht]
  | copyRdata =>
    cases h : statusRdv s.status with
    | true => simp [runAction, hostCopyRdata_of_rdv h]
    | false => simp [runAction, hostCopyRdata_of_not_rdv h]
  | read q =>
    cases q with
    | rdata =>
      cases h : statusRdv s.status with
      | true => simp [runAction, hostRead_rdata_of_rdv h]
      | false => simp [runAction, hostRead_rdata_of_not_rdv h]
    | cw => simp [runAction, hostRead, eq_comm]
    | opnd | status | fault => simp [runAction, hostRead]
  | writeReadOnly q v => simp [runAction, eq_comm]
  | writeOpnd | reset => simp [runAction]

/-- Settles O12: an idle step does not stop, and a host action stops exactly as the two lemmas above say. -/
theorem stepStopsOnlyOnForbiddenHostAccess : Obligations.StepStopsOnlyOnForbiddenHostAccess := by
  intro s
  cases hq : s.hostQueue with
  | nil => simp [step_of_empty hq]
  | cons a rest =>
    rw [step_of_cons hq]
    refine ⟨fun f => ?_, fun r => ?_⟩
    · simp [runAction_eq_fault, exists_or]
    · simp only [runAction_eq_refused, List.cons.injEq]
      constructor
      · rintro (⟨rfl, rfl⟩ | ⟨q, v, rfl, rfl⟩)
        · exact ⟨rest, .inl ⟨⟨rfl, rfl⟩, rfl⟩⟩
        · exact ⟨rest, .inr ⟨q, v, ⟨rfl, rfl⟩, rfl⟩⟩
      · rintro ⟨_, ⟨⟨rfl, -⟩, rfl⟩ | ⟨q, v, ⟨rfl, -⟩, rfl⟩⟩
        · exact .inl ⟨rfl, rfl⟩
        · exact .inr ⟨q, v, rfl, rfl⟩

/-! ### The host's command index -/

/-- No command touches the host (R18). -/
theorem exec_host {i : Instr} {s t : State} (h : exec i s = .next t) :
    t.hostQueue = s.hostQueue ∧ t.hostPc = s.hostPc := by
  obtain ⟨-, -, hpc, hqueue, -⟩ := frameOfEveryCommand i s t h
  exact ⟨hqueue, hpc⟩

theorem issueCommand_host {w : Word16} {s t : State} (h : issueCommand w s = .next t) :
    t.hostQueue = s.hostQueue ∧ t.hostPc = s.hostPc + 1 := by
  obtain ⟨-, rfl⟩ | ⟨-, -, rfl⟩ | ⟨-, i, -, hexec⟩ := issueCommand_next h
  · exact ⟨rfl, rfl⟩
  · exact ⟨rfl, rfl⟩
  · exact exec_host hexec

/-- Settles O11: a CW write moves the index on by one, an access to another register leaves it. -/
theorem hostCommandIndexCountsCwWrites : Obligations.HostCommandIndexCountsCwWrites := by
  intro s t a rest hq ht
  rw [step_of_cons hq] at ht
  cases a with
  | writeCw w =>
    obtain ⟨hqueue, hpc⟩ := issueCommand_host ht
    exact ⟨hqueue, fun _ => hpc, fun hne => absurd rfl (hne w)⟩
  | writeOpnd v => cases ht; exact ⟨rfl, nofun, fun _ _ => rfl⟩
  | copyRdata => obtain ⟨v, -, rfl⟩ := hostCopyRdata_next ht; exact ⟨rfl, nofun, fun _ _ => rfl⟩
  | read r => obtain ⟨v, rfl⟩ := hostRead_next ht; exact ⟨rfl, nofun, fun _ _ => rfl⟩
  | writeReadOnly r v => cases ht
  | reset => cases ht; exact ⟨rfl, nofun, fun _ hne => absurd rfl hne⟩

end Sys2Proof.Proofs

/-! PROOFS. The state right after reset (spec 10_state R32). -/

namespace Sys2Proof.Proofs

open Sys2Proof.Machine Sys2Proof.Laws

theorem statusRdv_zero : statusRdv 0x0000 = false := by decide

theorem statusReserved_zero : statusReserved 0x0000 = 0 := by decide

theorem faultReserved_zero : faultReserved 0x00000000 = 0 := by decide

theorem resetWith_not_faulted (c : Config) : (State.resetWith c).faulted = false := faultF_zero

/-- Settles O2: RDATA holds no value because RDV = 0 in STATUS = 0x0000; the other registers hold the values themselves. -/
theorem stateAfterResetHoldsTheSpecValues : Obligations.StateAfterResetHoldsTheSpecValues :=
  ⟨⟨Config.vectors, rfl⟩, fun _ => ⟨rfl, rfl, rfl, rfl, rdata?_eq_none.2 statusRdv_zero, rfl, rfl, rfl, rfl⟩⟩

/-- The invariant needs a legal configuration only: every register is at a value it allows. -/
theorem resetWith_inv {c : Config} (h : c.Legal) : Inv (State.resetWith c) := by
  have hrunning : RunningWf (State.resetWith c) := ⟨rfl, ⟨.ok, by simp, rfl⟩, fun _ => rfl⟩
  refine ⟨h, resetWith_wf c, statusReserved_zero, faultReserved_zero, fun _ => hrunning, fun hf => ?_⟩
  rw [resetWith_not_faulted] at hf
  cases hf

theorem vectors_legal : Config.vectors.Legal := by decide

/-- Settles O13: State.reset is the case of the vectors' configuration, which is legal. -/
theorem invariantHoldsAfterReset : Obligations.InvariantHoldsAfterReset :=
  ⟨fun _ h => resetWith_inv h, resetWith_inv vectors_legal⟩

end Sys2Proof.Proofs

/-! PROOFS. DECODE on a buffer that does not yet hold its frame (spec 20_memory R42, 40_decode R63, R67): whether it waits
is read off IBUF and the configuration alone, and waiting changes neither. -/

namespace Sys2Proof.Proofs

open Sys2Proof.Machine Sys2Proof.Laws

/-- The buffers DECODE waits on: no whole header yet (R63), or in STRICT a frame that fits the capacities and of which bytes
are still missing (R67). -/
def DecodeWaits (c : Config) (buf : List Byte) : Prop :=
  readHeader? buf = none ∨ ∃ hd, readHeader? buf = some hd ∧ c.framingMode = .strict ∧
    hd.payloadLength.toNat ≤ c.msgDataCap ∧ hd.signatureLength.toNat ≤ c.msgSigCap ∧
    HDR + hd.payloadLength.toNat + hd.signatureLength.toNat ≤ c.ibufCap ∧
    buf.length < HDR + hd.payloadLength.toNat + hd.signatureLength.toNat

section
variable {s t : State}

theorem execDecode_of_decodeWaits (h : DecodeWaits s.config s.ibuf) : execDecode s = decodeIncomplete s := by
  obtain hnone | ⟨hd, hsome, hstrict, hdata, hsig, hfits, hshort⟩ := h
  · rw [execDecode, hnone]
  · simp only [execDecode, hsome, hstrict]
    exact (if_neg (by omega)).trans (if_pos hshort)

/-- A cause's byte is no outcome code of R98. -/
theorem raise_status_ne_incomplete (s : State) (c : Cause) (w : Word16) : (s.raise c w).status ≠ 0x0001 := by
  rw [State.raise_status]
  cases c <;> decide

theorem takeFrame_status_ne_incomplete {hd : Header} {b : Nat} (h : takeFrame hd b s = .next t) :
    t.status ≠ 0x0001 := by
  rw [takeFrame_next h]
  change statusWord Code.ok.byte false ≠ 0x0001
  decide

/-- The LEGACY router never waits (R65 to R68). -/
theorem decodeLegacy_status_ne_incomplete {hd : Header} (h : decodeLegacy hd s = .next t) : t.status ≠ 0x0001 := by
  obtain ⟨-, rfl⟩ | ⟨-, -, rfl⟩ | ⟨-, -, -, ht⟩ := decodeLegacy_next h
  · exact raise_status_ne_incomplete _ _ _
  · exact raise_status_ne_incomplete _ _ _
  · exact takeFrame_status_ne_incomplete ht

/-- DECODE ends INCOMPLETE on no other buffers. -/
theorem decodeWaits_of_incomplete (h : execDecode s = .next t) (hstatus : t.status = 0x0001) :
    DecodeWaits s.config s.ibuf := by
  unfold execDecode at h
  split at h
  · exact .inl ‹_›
  · split at h
    · exact absurd hstatus (decodeLegacy_status_ne_incomplete h)
    · unfold decodeStrict at h
      dsimp only at h
      split at h
      · rw [raiseIn_next h] at hstatus
        exact absurd hstatus (raise_status_ne_incomplete _ _ _)
      · split at h
        · exact .inr ⟨_, ‹_›, ‹_›, by omega, by omega, by omega, ‹_›⟩
        · exact absurd hstatus (takeFrame_status_ne_incomplete h)

end

/-- Settles O51: the first DECODE leaves IBUF and the configuration, so the second waits too, and invalidates a Message
that is already invalid. -/
theorem incompleteDecodeRepeatsUnchanged : Obligations.IncompleteDecodeRepeatsUnchanged := by
  intro s t h hstatus
  have hwaits : DecodeWaits s.config s.ibuf := decodeWaits_of_incomplete h hstatus
  have ht : decodeIncomplete s = .next t := (execDecode_of_decodeWaits hwaits).symm.trans h
  obtain rfl := decodeIncomplete_next ht
  exact ⟨rfl, _, execDecode_of_decodeWaits hwaits, SameView.refl _⟩

end Sys2Proof.Proofs

/-! PROOFS. A command word is its three fields, so the decoder's tests fix the whole word (spec 30_encoding R54, R57,
R58), and with it the word's row of opcode_table.json. -/

namespace Sys2Proof.Proofs

open Sys2Proof.Machine Sys2Proof.Laws

/-- RSV, SEL and OPC are all the bits of a word (R54). -/
theorem word_eq_fields (w : Word16) : (cwRsv w ++ cwSel w) ++ cwOpc w = w := by
  apply BitVec.eq_of_getLsbD_eq
  intro k hk
  simp only [cwRsv, cwSel, cwOpc, BitVec.getLsbD_append, BitVec.getLsbD_extractLsb']
  grind

theorem encode_eq_of_fields {w : Word16} {i : Instr} (hrsv : cwRsv w = 0) (hsel : cwSel w = selOf i)
    (hopc : cwOpc w = opcodeOf i) : encode i = w := by
  have h := word_eq_fields w
  rwa [hrsv, hsel, hopc] at h

theorem selCode_of_selectorOf {x : BitVec 4} {f : Selector} (h : selectorOf x = some f) : selCode f = x := by
  unfold selectorOf at h
  split at h <;> cases h <;> exact BitVec.eq_of_toNat_eq (Eq.symm ‹_›)

theorem cwSel_of_withoutSel {w : Word16} {i j : Instr} (h : withoutSel w i = .ok j) : cwSel w = 0 := by
  unfold withoutSel at h
  split at h
  · assumption
  · cases h

theorem cwSel_of_decodeMsgWr {w : Word16} {i : Instr} (h : decodeMsgWr w = .ok i) : cwSel w = selOf i := by
  unfold decodeMsgWr at h
  split at h
  · split at h <;> cases h
    exact (selCode_of_selectorOf ‹_›).symm
  · cases h

theorem cwSel_of_decodeMsgRd {w : Word16} {i : Instr} (h : decodeMsgRd w = .ok i) : cwSel w = selOf i := by
  unfold decodeMsgRd at h
  split at h <;> cases h
  exact (selCode_of_selectorOf ‹_›).symm

/-- A word that decodes carries the fields of its command (R56 to R58). -/
theorem fields_of_decode {w : Word16} {i : Instr} (h : decode w = .ok i) :
    cwRsv w = 0 ∧ cwSel w = selOf i ∧ cwOpc w = opcodeOf i := by
  unfold decode at h
  split at h
  · refine ⟨‹_›, ?_⟩
    unfold decodeOpc at h
    split at h
    case h_8 hopc =>
      refine ⟨cwSel_of_decodeMsgWr h, ?_⟩
      obtain ⟨f, -, rfl⟩ := decodeMsgWr_ok h
      exact BitVec.eq_of_toNat_eq hopc
    case h_9 hopc =>
      refine ⟨cwSel_of_decodeMsgRd h, ?_⟩
      obtain ⟨f, rfl⟩ := decodeMsgRd_ok h
      exact BitVec.eq_of_toNat_eq hopc
    case h_14 => cases h
    all_goals
      have hsel := cwSel_of_withoutSel h
      obtain rfl := withoutSel_ok h
      exact ⟨hsel, BitVec.eq_of_toNat_eq ‹_›⟩
  · cases h

/-- A word that decodes is the encoding of what it decodes to. -/
theorem encode_of_decode {w : Word16} {i : Instr} (h : decode w = .ok i) : encode i = w := by
  obtain ⟨hrsv, hsel, hopc⟩ := fields_of_decode h
  exact encode_eq_of_fields hrsv hsel hopc

/-- Settles O24: a command's word decodes by cases on the command, and a word that decodes has no bits beside the fields
the decoder's tests fix. -/
theorem decodeAndEncodeAgree : Obligations.DecodeAndEncodeAgree :=
  ⟨fun _ => decode_encode, fun _ _ h => ⟨wellFormed_of_decode h, encode_of_decode h⟩⟩

/-- Settles O25: each word written out is the encoding of its command. -/
theorem wordsOfTheOpcodeMapDecode : Obligations.WordsOfTheOpcodeMapDecode :=
  ⟨decode_encode (i := .decode) rfl, decode_encode (i := .encode) rfl, decode_encode (i := .inPush) rfl,
    decode_encode (i := .outPop) rfl, decode_encode (i := .msgNew) rfl, decode_encode (i := .msgWr .encrypted) rfl,
    decode_encode (i := .msgRd .sigLen) rfl, decode_encode (i := .msgRdData) rfl⟩

/-! ### The well-formed commands, listed -/

/-- The commands with a legal word, in the order of the opcode map (R57 to R59). -/
def legalInstrs : List Instr :=
  [.decode, .encode, .inPush, .inLen, .outPop, .outLen, .msgNew] ++
    [Selector.signatureLength, .version, .messageType, .serviceId, .payloadLength, .encrypted].map Instr.msgWr ++
    [Selector.signatureLength, .version, .messageType, .serviceId, .payloadLength, .encrypted, .dataLen, .sigLen].map
      Instr.msgRd ++
    [.msgPushData, .msgPushSig, .msgRdData, .msgRdSig]

/-- The list is exact, so what holds of its 25 commands holds of every well-formed one. -/
theorem mem_legalInstrs {i : Instr} : i ∈ legalInstrs ↔ i.wellFormed = true := by
  cases i with
  | msgWr f => cases f <;> decide
  | msgRd f => cases f <;> decide
  | _ => decide

/-! ### The rows of opcode_table.json -/

/-- Every row's mask keeps the whole opcode, so a row fixes it (R57). -/
theorem cwOpc_of_covers {r : OpcodeRow} {w : Word16} (hr : r ∈ opcodeRows) (h : r.covers w = true) :
    cwOpc r.matchValue = cwOpc w := by
  have hmask : ∀ r ∈ opcodeRows, cwOpc r.mask = BitVec.allOnes 8 := by decide
  have hmatch : w &&& r.mask = r.matchValue := eq_of_beq h
  calc cwOpc r.matchValue = cwOpc (w &&& r.mask) := by rw [hmatch]
    _ = cwOpc w &&& cwOpc r.mask := BitVec.extractLsb'_and
    _ = cwOpc w := by rw [hmask r hr, BitVec.and_allOnes]

theorem opcodes_of_rows_nodup : (opcodeRows.map fun r => cwOpc r.matchValue).Nodup := by decide

/-- The rows of a word all have the word's opcode, and no two rows have the same. -/
theorem rows_of_word_length_le_one (w : Word16) : (opcodeRows.filter fun r => r.covers w).length ≤ 1 := by
  have hopc : ∀ b ∈ (opcodeRows.filter fun r => r.covers w).map fun r => cwOpc r.matchValue, b = cwOpc w := by
    simp only [List.mem_map, List.mem_filter]
    rintro _ ⟨r, ⟨hr, hw⟩, rfl⟩
    exact cwOpc_of_covers hr hw
  have hnodup := opcodes_of_rows_nodup.sublist ((List.filter_sublist (p := fun r => r.covers w)).map _)
  rw [List.eq_replicate_of_mem hopc, List.nodup_replicate, List.length_map] at hnodup
  exact hnodup

/-- A well-formed command's own word lies in its own row. -/
theorem row_of_encode {i : Instr} (h : i.wellFormed = true) :
    (opcodeRows.filter fun r => r.covers (encode i)).map OpcodeRow.mnemonic = [mnemonicOf i] := by
  have hrows : ∀ i ∈ legalInstrs,
      (opcodeRows.filter fun r => r.covers (encode i)).map OpcodeRow.mnemonic = [mnemonicOf i] := by decide
  exact hrows i (mem_legalInstrs.2 h)

/-- Settles O26: the rows' opcodes are distinct, and a word that decodes is its command's own word. -/
theorem opcodeTableRowsAgreeWithDecoder : Obligations.OpcodeTableRowsAgreeWithDecoder := by
  refine ⟨rows_of_word_length_le_one, fun w i h => ?_⟩
  rw [← encode_of_decode h]
  exact row_of_encode (wellFormed_of_decode h)

end Sys2Proof.Proofs

/-! PROOFS. A CW write of a legal and of an illegal word (spec 30_encoding R56, R59): the illegal words are exactly
those the decoder's tests refuse, and every word but 25 is one. -/

namespace Sys2Proof.Proofs

open Sys2Proof.Machine Sys2Proof.Laws Sys2Proof.Spec

/-! ### The CW write -/

section
variable {s : State} {w : Word16}

theorem issueCommand_of_ok {i : Instr} (hf : s.faulted = false) (hw : decode w = .ok i) :
    issueCommand w s = exec i s.advanceHostPc := by
  simp [issueCommand, hf, hw]

theorem issueCommand_of_error {e : DecodeError} (hf : s.faulted = false) (hw : decode w = .error e) :
    issueCommand w s = .next (s.advanceHostPc.raise .illegalCommand w) := by
  simp [issueCommand, hf, hw]

end

/-- Settles O6: the step is the CW write, taken off the queue. -/
theorem cwWriteRunsTheDecodedCommand : Obligations.CwWriteRunsTheDecodedCommand := by
  intro s w rest i hq hf hw
  rw [step_of_cons hq]
  exact issueCommand_of_ok hf hw

/-! ### A raise, in the words of the statements -/

/-- The layout of FAULT after a raise, bit by bit (R28). -/
theorem faultWord_eq_faultRegister (c : Byte) (w : Word16) : faultWord c w = faultRegister c w := by
  apply BitVec.eq_of_getLsbD_eq
  intro k hk
  simp only [faultWord, faultRegister, BitVec.getLsbD_append, BitVec.getLsbD_or, BitVec.getLsbD_shiftLeft,
    BitVec.getLsbD_setWidth]
  grind

theorem statusWord_eq_setWidth (c : Byte) : statusWord c false = c.setWidth 16 := by
  apply BitVec.eq_of_getLsbD_eq
  intro k hk
  simp only [statusWord, BitVec.getLsbD_append, BitVec.getLsbD_setWidth]
  grind

theorem raise_eq_raised (s : State) (c : Cause) (w : Word16) : s.raise c w = raised s c.byte w := by
  rw [State.raise, raised, faultWord_eq_faultRegister, statusWord_eq_setWidth]

/-- MSG_WR of a read-only field raises ILLEGAL_COMMAND in every state (R58, R59). -/
theorem exec_msgWr_of_not_writable {f : Selector} (hf : f.writable = false) (s : State) :
    exec (.msgWr f) s = .next (raised s 0x80 (encode (.msgWr f))) := by
  calc exec (.msgWr f) s = raiseIn (.msgWr f) .illegalCommand s := if_pos hf
    _ = .next (raised s 0x80 (encode (.msgWr f))) := congrArg _ (raise_eq_raised s .illegalCommand _)

/-- Settles O36: the two lengths are not writable, and SEL 6 and 7 name them. -/
theorem msgWrOfALengthIsIllegal : Obligations.MsgWrOfALengthIsIllegal := by
  intro s
  exact ⟨exec_msgWr_of_not_writable rfl s, exec_msgWr_of_not_writable rfl s, by decide, by decide⟩

/-! ### The list of R59 -/

theorem cwRsv_toNat (w : Word16) : (cwRsv w).toNat = w.toNat / 2 ^ 12 := by
  rw [cwRsv, BitVec.extractLsb'_toNat, Nat.shiftRight_eq_div_pow]
  exact Nat.mod_eq_of_lt (by omega)

theorem cwSel_toNat (w : Word16) : (cwSel w).toNat = w.toNat / 2 ^ 8 % 2 ^ 4 := by
  rw [cwSel, BitVec.extractLsb'_toNat, Nat.shiftRight_eq_div_pow]

theorem cwOpc_toNat (w : Word16) : (cwOpc w).toNat = w.toNat % 2 ^ 8 := by
  simp [cwOpc, BitVec.extractLsb'_toNat]

theorem withoutSel_error {w : Word16} {i : Instr} {e : DecodeError} (h : withoutSel w i = .error e) :
    cwSel w ≠ 0 := by
  unfold withoutSel at h
  split at h
  · cases h
  · assumption

theorem le_toNat_of_selectorOf_eq_none {x : BitVec 4} (h : selectorOf x = none) : 8 ≤ x.toNat := by
  revert x
  decide

theorem decodeMsgRd_error {w : Word16} {e : DecodeError} (h : decodeMsgRd w = .error e) : 8 ≤ (cwSel w).toNat := by
  unfold decodeMsgRd at h
  split at h
  · cases h
  · exact le_toNat_of_selectorOf_eq_none ‹_›

theorem le_selCode_of_not_writable {f : Selector} (h : f.writable = false) : 6 ≤ (selCode f).toNat := by
  cases f <;> revert h <;> decide

theorem decodeMsgWr_error {w : Word16} {e : DecodeError} (h : decodeMsgWr w = .error e) : 6 ≤ (cwSel w).toNat := by
  unfold decodeMsgWr at h
  split at h
  next f hsel =>
    split at h
    · cases h
    · rw [← selCode_of_selectorOf hsel]
      exact le_selCode_of_not_writable (by simpa using ‹¬ f.writable = true›)
  next hsel => exact (le_toNat_of_selectorOf_eq_none hsel).trans' (by decide)

/-- Each test of R56 that refuses a word is a line of the list of R59. -/
theorem illegalWord_of_error {w : Word16} {e : DecodeError} (h : decode w = .error e) : illegalWord w := by
  simp only [illegalWord, ← cwRsv_toNat, ← cwSel_toNat, ← cwOpc_toNat]
  unfold decode at h
  split at h
  · unfold decodeOpc at h
    split at h
    case h_8 hopc => exact .inr (.inr (.inr (.inl ⟨hopc, decodeMsgWr_error h⟩)))
    case h_9 hopc => exact .inr (.inr (.inr (.inr ⟨hopc, decodeMsgRd_error h⟩)))
    case h_14 =>
      refine .inr (.inl ?_)
      simp only [List.mem_cons, List.not_mem_nil, or_false, not_or]
      and_intros <;> assumption
    all_goals
      have hsel := mt BitVec.eq_of_toNat_eq (withoutSel_error h)
      exact .inr (.inr (.inl ⟨by omega, by omega, hsel⟩))
  next hrsv => exact .inl fun h => hrsv (BitVec.eq_of_toNat_eq h)

/-- The fields of a legal word are on no line of the list. -/
theorem not_illegalWord_encode {i : Instr} (h : i.wellFormed = true) : ¬ illegalWord (encode i) := by
  have hlist : ∀ i ∈ legalInstrs, ¬ illegalWord (encode i) := by
    simp only [illegalWord, ← cwRsv_toNat, ← cwSel_toNat, ← cwOpc_toNat, cwRsv_encode, cwSel_encode, cwOpc_encode]
    decide
  exact hlist i (mem_legalInstrs.2 h)

/-- The words on the list are those that do not decode (R59). -/
theorem illegalWord_iff (w : Word16) : illegalWord w ↔ ∃ e, decode w = .error e := by
  constructor
  · intro h
    cases hw : decode w with
    | ok i =>
      rw [← encode_of_decode hw] at h
      exact absurd h (not_illegalWord_encode (wellFormed_of_decode hw))
    | error e => exact ⟨e, rfl⟩
  · rintro ⟨e, h⟩
    exact illegalWord_of_error h

theorem legalWords_eq : legalWords = legalInstrs.map encode := by decide

theorem mem_legalWords_iff (w : Word16) : w ∈ legalWords ↔ ∃ i, decode w = .ok i := by
  rw [legalWords_eq, List.mem_map]
  constructor
  · rintro ⟨i, hi, rfl⟩
    exact ⟨i, decode_encode (mem_legalInstrs.1 hi)⟩
  · rintro ⟨i, h⟩
    exact ⟨i, mem_legalInstrs.2 (wellFormed_of_decode h), encode_of_decode h⟩

theorem not_illegalWord_iff (w : Word16) : ¬ illegalWord w ↔ w ∈ legalWords := by
  rw [illegalWord_iff, mem_legalWords_iff]
  cases decode w <;> simp

/-- Settles O7: a word on the list is one the decoder refuses, and the CW write of a refused word raises. -/
theorem illegalWordsRaiseIllegalCommand : Obligations.IllegalWordsRaiseIllegalCommand := by
  refine ⟨fun s w rest hq hf hw => ?_, not_illegalWord_iff, by decide, by decide, mem_legalWords_iff⟩
  obtain ⟨e, he⟩ := (illegalWord_iff w).1 hw
  calc step s = issueCommand w { s with hostQueue := rest } := step_of_cons hq
    _ = .next _ := issueCommand_of_error hf he
    _ = .next (raised { s with hostQueue := rest, hostPc := s.hostPc + 1 } 0x80 w) :=
      congrArg _ (raise_eq_raised _ .illegalCommand w)

end Sys2Proof.Proofs

/-! PROOFS. The fixed header, byte by byte, and read back from what a Message writes (spec 20_memory R36 to R38,
30_encoding R51, R52). -/

namespace Sys2Proof.Proofs

open Sys2Proof.Machine Sys2Proof.Laws Sys2Proof.Spec

/-- The byte at the lowest offset is the least significant one (R36). -/
theorem ofNat_leValue_cons (n : Nat) (b : Byte) (bs : List Byte) :
    BitVec.ofNat (n + 8) (leValue (b :: bs)) = BitVec.ofNat n (leValue bs) ++ b := by
  apply BitVec.eq_of_toNat_eq
  have hb : b.toNat < 2 ^ 8 := b.isLt
  rw [BitVec.toNat_append, ← Nat.shiftLeft_add_eq_or_of_lt hb, BitVec.toNat_ofNat, BitVec.toNat_ofNat, leValue,
    Nat.shiftLeft_eq, Nat.add_comm n 8, Nat.pow_add, Nat.mod_mul, Nat.add_mul_mod_self_left, Nat.mod_eq_of_lt hb,
    Nat.add_mul_div_left _ _ (by decide), Nat.div_eq_of_lt hb, Nat.zero_add, Nat.add_comm, Nat.mul_comm]

theorem ofNat_leValue_one (b : Byte) : BitVec.ofNat 8 (leValue [b]) = b := by
  simp [leValue]

theorem ofNat_leValue_two (b c : Byte) : BitVec.ofNat 16 (leValue [b, c]) = c ++ b := by
  rw [ofNat_leValue_cons 8, ofNat_leValue_one]

theorem ofNat_leValue_four (b c d e : Byte) : BitVec.ofNat 32 (leValue [b, c, d, e]) = e ++ d ++ c ++ b := by
  rw [ofNat_leValue_cons 24, ofNat_leValue_cons 16, ofNat_leValue_two]

/-- MemRead inside the buffer (R37). -/
theorem memRead_of_le {buf : List Byte} {addr n : Nat} (h : addr + n ≤ buf.length) :
    memRead? buf addr n = some (BitVec.ofNat (8 * n) (leValue ((buf.drop addr).take n))) := if_pos h

/-- A header is read from the values at its six offsets (R51). -/
theorem readHeader_of_fields {buf : List Byte} {hd : Header} (hsl : memRead? buf 0 4 = some hd.signatureLength)
    (hver : memRead? buf 4 1 = some hd.version) (hmt : memRead? buf 5 2 = some hd.messageType)
    (hsid : memRead? buf 7 2 = some hd.serviceId) (hpl : memRead? buf 9 4 = some hd.payloadLength)
    (henc : memRead? buf 13 2 = some hd.encrypted) : readHeader? buf = some hd := by
  simp only [readHeader?, hsl, hver, hmt, hsid, hpl, henc]
  rfl

/-- Settles O27: each field is the bytes MemRead takes at its offset. -/
theorem headerFieldsAreLittleEndian : Obligations.HeaderFieldsAreLittleEndian := by
  intro b0 b1 b2 b3 b4 b5 b6 b7 b8 b9 b10 b11 b12 b13 b14 rest
  apply readHeader_of_fields <;> rw [memRead_of_le (by simp)] <;> apply congrArg some
  · exact ofNat_leValue_four b0 b1 b2 b3
  · exact ofNat_leValue_one b4
  · exact ofNat_leValue_two b5 b6
  · exact ofNat_leValue_two b7 b8
  · exact ofNat_leValue_four b9 b10 b11 b12
  · exact ofNat_leValue_two b13 b14

/-- MemRead at the offset where a value's bytes stand. -/
theorem memRead_of_isPrefix {buf : List Byte} {addr n : Nat} {v : BitVec (8 * n)} (pre : List Byte)
    (hbuf : pre ++ leBytes n v <+: buf) (hpre : pre.length = addr) : memRead? buf addr n = some v := by
  obtain ⟨post, rfl⟩ := hbuf
  subst hpre
  exact memRead_of_append pre post n v

theorem front_of_append {front tail buf : List Byte} (h : front ++ tail <+: buf) : front <+: buf :=
  List.IsPrefix.trans ⟨tail, rfl⟩ h

/-- Settles O28: cut after any of its fields, the header is a front of the buffer, so each MemRead finds the bytes of
the field that ends the front. -/
theorem headerReadsBackAsWritten : Obligations.HeaderReadsBackAsWritten := by
  intro m rest
  have h6 : headerBytes m <+: headerBytes m ++ rest := ⟨rest, rfl⟩
  have h5 := front_of_append h6
  have h4 := front_of_append h5
  have h3 := front_of_append h4
  have h2 := front_of_append h3
  have h1 := front_of_append h2
  exact readHeader_of_fields (memRead_of_isPrefix [] h1 rfl) (memRead_of_isPrefix _ h2 rfl)
    (memRead_of_isPrefix _ h3 rfl) (memRead_of_isPrefix _ h4 rfl) (memRead_of_isPrefix _ h5 rfl)
    (memRead_of_isPrefix _ h6 rfl)

end Sys2Proof.Proofs

/-! PROOFS. Host programs (spec 30_encoding R60): what the lines expand to, the command texts, and PUSHB run to its end
(42_buffer_port R86). -/

namespace Sys2Proof.Proofs

open Sys2Proof.Machine Sys2Proof.Laws

/-! ### Lines -/

theorem expand_pushb_cons (b : Word32) (bs : List Word32) :
    (AsmLine.pushb (b :: bs)).expand = withOperand b .inPush ++ (AsmLine.pushb bs).expand := List.flatMap_cons

theorem expand_popn_succ (n : Nat) : (AsmLine.popn (n + 1)).expand =
    [.writeCw (encode .outPop), .read .status, .read .rdata] ++ (AsmLine.popn n).expand := by
  simp only [AsmLine.expand, List.replicate_succ, List.flatten_cons]

/-- The text of a well-formed command reads back (R60). -/
theorem parseLine_instrText {i : Instr} (h : i.wellFormed = true) : parseLine? (instrText i) = some (.command i) := by
  have hlist : ∀ i ∈ legalInstrs, parseLine? (instrText i) = some (.command i) := by decide
  exact hlist i (mem_legalInstrs.2 h)

/-- Settles O29: a line expands by its definition, the two repetitions one round at a time, and the texts are read
command by command. -/
theorem assemblerFollowsTheSyntax : Obligations.AssemblerFollowsTheSyntax :=
  ⟨fun _ => rfl, fun _ => rfl, rfl, rfl, rfl, rfl, fun _ => rfl, expand_pushb_cons, fun _ _ => rfl,
    fun _ => rfl, fun _ => rfl, rfl, expand_popn_succ, fun _ => parseLine_instrText⟩

/-! ### PUSHB -/

theorem exec_inPush_of_room {s : State} (hbyte : s.opnd.toNat < 256) (hroom : s.ibuf.length < s.config.ibufCap) :
    exec .inPush s = .next ((s.setIbuf (s.ibuf ++ [BitVec.ofNat 8 s.opnd.toNat])).finish .ok) := by
  change execInPush s = _
  rw [execInPush, byteOperand_eq_some hbyte]
  exact if_neg hroom.ne

/-- A CW write of IN_PUSH with a byte in OPND and room in IBUF (R86). -/
theorem step_inPush {s : State} {rest : List HostAction} (hf : s.faulted = false)
    (hq : s.hostQueue = .writeCw (encode .inPush) :: rest) (hbyte : s.opnd.toNat < 256)
    (hroom : s.ibuf.length < s.config.ibufCap) :
    step s = .next { s with
      ibuf := s.ibuf ++ [BitVec.ofNat 8 s.opnd.toNat], status := statusWord Code.ok.byte false,
      hostQueue := rest, hostPc := s.hostPc + 1 } := by
  rw [cwWriteRunsTheDecodedCommand s _ rest .inPush hq hf (decode_encode rfl)]
  exact exec_inPush_of_room hbyte hroom

/-- The state after PUSH b: the byte is in OPND and at the back of IBUF, and both host actions are done (R60). -/
def afterPush (s : State) (b : Word32) (rest : List HostAction) : State :=
  { s with
    ibuf := s.ibuf ++ [BitVec.ofNat 8 b.toNat], opnd := b, status := statusWord Code.ok.byte false,
    hostQueue := rest, hostPc := s.hostPc + 1 }

/-- PUSH b takes two steps, the OPND write and the command. -/
theorem run_push {s : State} {b : Word32} {rest : List HostAction} (hf : s.faulted = false)
    (hq : s.hostQueue = withOperand b .inPush ++ rest) (hb : b.toNat < 256)
    (hroom : s.ibuf.length < s.config.ibufCap) (k : Nat) :
    Host.Core.run core (k + 2) s = Host.Core.run core k (afterPush s b rest) := by
  have hopnd : step s = .next { s with hostQueue := .writeCw (encode .inPush) :: rest, opnd := b } := step_of_cons hq
  have hpush : step { s with hostQueue := .writeCw (encode .inPush) :: rest, opnd := b } =
      .next (afterPush s b rest) := step_inPush hf rfl hb hroom
  rw [run_succ hopnd, run_succ hpush]

/-- Settles O30, by induction on the operands: the first byte is one PUSH, which leaves room for the others. -/
theorem pushingBytesBuffersThemInOrder : Obligations.PushingBytesBuffersThemInOrder := by
  intro bs
  induction bs with
  | nil =>
    intro s rest hf hq hbytes hroom
    exact ⟨s, rfl, (List.append_nil _).symm, hq, rfl, rfl, rfl, rfl⟩
  | cons b bs ih =>
    intro s rest hf hq hbytes hroom
    rw [List.length_cons] at hroom
    obtain ⟨hb, hbs⟩ := List.forall_mem_cons.1 hbytes
    rw [expand_pushb_cons, List.append_assoc] at hq
    obtain ⟨t, hrun, hibuf, hqueue, hfault, hobuf, hmsg, hpc⟩ :=
      ih (afterPush s b ((AsmLine.pushb bs).expand ++ rest)) rest hf rfl hbs (by simp [afterPush]; omega)
    refine ⟨t, ?_, ?_, hqueue, hfault, hobuf, hmsg, ?_⟩
    · exact (run_push hf hq hb (by omega) (2 * bs.length)).trans hrun
    · simp [hibuf, afterPush]
    · simp [hpc, afterPush]; omega

end Sys2Proof.Proofs

/-! PROOFS. DECODE (spec 40_decode R61 to R76): what each router answers to a buffer that holds a header, in the words of
the statements, and the frames of LEGACY and STRICT read off it. -/

namespace Sys2Proof.Proofs

open Sys2Proof.Machine Sys2Proof.Spec Sys2Proof.Laws

/-! ### The header at the front of a buffer -/

/-- MemRead inside a front of the buffer reads the front (R37). -/
theorem memRead_append {buf : List Byte} {addr n : Nat} (h : addr + n ≤ buf.length) (rest : List Byte) :
    memRead? (buf ++ rest) addr n = memRead? buf addr n := by
  rw [memRead_of_le h, memRead_of_le (by rw [List.length_append]; omega), List.drop_append_of_le_length (by omega),
    List.take_append_of_le_length (by rw [List.length_drop]; omega)]

/-- What follows a header does not change how it reads (R51). -/
theorem readHeader_append {hdr : List Byte} {h : Header} (hh : readHeader? hdr = some h) (rest : List Byte) :
    readHeader? (hdr ++ rest) = some h := by
  have hlen : 15 ≤ hdr.length := headerLength_of_readHeader hh
  rw [← hh]
  simp (disch := omega) only [readHeader?, memRead_append]

theorem readHeader_headerBytes (m : Msg) : readHeader? (headerBytes m) = some (headerOf m) := by
  simpa using headerReadsBackAsWritten m []

/-! ### The ends of DECODE -/

section
variable {s t : State} {h : Header}

theorem exec_decode_of_legacy (hmode : s.config.framingMode = .legacy) (hh : readHeader? s.ibuf = some h) :
    exec .decode s = decodeLegacy h s := by
  simp only [exec, execDecode, hh, hmode]

theorem exec_decode_of_strict (hmode : s.config.framingMode = .strict) (hh : readHeader? s.ibuf = some h) :
    exec .decode s = decodeStrict h s := by
  simp only [exec, execDecode, hh, hmode]

theorem raiseIn_decode (c : Cause) : raiseIn .decode c s = .next (raised s c.byte 0x0001) :=
  congrArg _ (raise_eq_raised s c _)

/-- A buffer DECODE waits on is left as it is, and MSG becomes invalid (R63, R67). -/
theorem endsIncomplete_of_decodeWaits (hw : DecodeWaits s.config s.ibuf) : EndsIncomplete s :=
  ⟨{ s.msg with valid := false }, rfl, execDecode_of_decodeWaits hw⟩

/-- A buffer cut at the header, at the boundary and behind the signature is routed to its pieces (R69, R70). -/
theorem takeFrame_of_append {hdr data sig rest : List Byte} {b : Nat} (hbuf : s.ibuf = hdr ++ data ++ sig ++ rest)
    (hhdr : hdr.length = 15) (hb : b = 15 + data.length) (hsig : sig.length = h.signatureLength.toNat) :
    takeFrame h b s = .next { s with msg := message h data sig, ibuf := rest, status := 0x0000 } := by
  have hfront : (hdr ++ data).length = b := by rw [List.length_append, hhdr, hb]
  have hdata : slice s.ibuf HDR b = data := by
    rw [slice, hbuf, List.append_assoc, List.take_left' hfront, HDR_eq, List.drop_left' hhdr]
  have hsign : slice s.ibuf b (b + h.signatureLength.toNat) = sig := by
    rw [slice, hbuf, List.take_left' (by rw [List.length_append]; omega), List.drop_left' hfront]
  have hrest : s.ibuf.drop (HDR + (b - HDR) + h.signatureLength.toNat) = rest := by
    rw [hbuf, List.drop_left' (by rw [List.length_append, HDR_eq]; omega)]
  rw [takeFrame, hdata, hsign, hrest]
  rfl

end

/-- Settles O41: there is no header to read. -/
theorem shortBufferIsIncomplete : Obligations.ShortBufferIsIncomplete := fun _ hshort =>
  endsIncomplete_of_decodeWaits (.inl ((readHeader_eq_none _).2 hshort))

/-! ### Frames and faults by mode -/

/-- Settles O42: the boundary is the buffered length without the signature, so the buffer is cut where it is put
together. -/
theorem legacyDecodeSplitsByBufferedLength : Obligations.LegacyDecodeSplitsByBufferedLength := by
  intro s h hdr data sig hmode hbuf hhdr hh hsig hdata hcap
  have hread : readHeader? s.ibuf = some h := by
    rw [hbuf, List.append_assoc]; exact readHeader_append hh _
  have hlen : s.ibuf.length = 15 + data.length + sig.length := by simp only [hbuf, List.length_append, hhdr]
  calc exec .decode s = decodeLegacy h s := exec_decode_of_legacy hmode hread
    _ = takeFrame h (s.ibuf.length - h.signatureLength.toNat) s := by
      rw [decodeLegacy, if_neg (by rw [HDR_eq]; omega), if_neg (by rw [HDR_eq]; omega)]
    _ = _ := takeFrame_of_append (by rw [hbuf, List.append_nil]) hhdr (by omega) hsig

/-- Settles O43: the underflow test comes first in the LEGACY router, and a raise sets FAULT.F. -/
theorem legacyUnderflowFaults : Obligations.LegacyUnderflowFaults := by
  intro s h hmode hh hunder
  have hlen := headerLength_of_readHeader hh
  rw [HDR_eq] at hlen
  constructor
  · calc exec .decode s = decodeLegacy h s := exec_decode_of_legacy hmode hh
      _ = raiseIn .decode .sigUnderflow s := if_pos (by rw [HDR_eq]; omega)
      _ = .next (raised s 0x82 0x0001) := raiseIn_decode .sigUnderflow
  · have hraised : s.raise .sigUnderflow 0x0001 = raised s 0x82 0x0001 := raise_eq_raised s .sigUnderflow _
    rw [← hraised, raise_faulted]

/-- Settles O44: too few bytes are waited on; otherwise the boundary is the header and the declared payload. -/
theorem strictDecodeSplitsByDeclaredLengths : Obligations.StrictDecodeSplitsByDeclaredLengths := by
  intro s h hmode hpl hsl hfits
  constructor
  · intro hh hshort
    exact endsIncomplete_of_decodeWaits (.inr ⟨h, hh, hmode, hpl, hsl, hfits, hshort⟩)
  · intro hdr data sig rest hbuf hhdr hh hdata hsig
    have hread : readHeader? s.ibuf = some h := by
      rw [hbuf, List.append_assoc, List.append_assoc]; exact readHeader_append hh _
    have hlen : s.ibuf.length = 15 + data.length + sig.length + rest.length := by
      simp only [hbuf, List.length_append, hhdr]
    calc exec .decode s = decodeStrict h s := exec_decode_of_strict hmode hread
      _ = takeFrame h (HDR + h.payloadLength.toNat) s := by
        rw [decodeStrict, if_neg (by rw [HDR_eq]; omega), if_neg (by rw [HDR_eq]; omega)]
      _ = _ := takeFrame_of_append hbuf hhdr (by rw [HDR_eq, hdata]) hsig

/-- In LEGACY byte fields that hold whatever a full IBUF has behind its header exclude CAPACITY (R68). -/
theorem statusCode_ne_capacity_of_legacy {s t : State} (hmode : s.config.framingMode = .legacy) (hwf : Memory.wf s)
    (hdata : s.config.ibufCap - 15 ≤ s.config.msgDataCap) (hsig : s.config.ibufCap - 15 ≤ s.config.msgSigCap)
    (ht : exec .decode s = .next t) : statusCode t.status ≠ 0x83 := by
  cases hh : readHeader? s.ibuf with
  | none =>
    obtain rfl := decodeIncomplete_next ((execDecode_of_decodeWaits (.inl hh)).symm.trans ht)
    rw [State.finish_status]
    decide
  | some h =>
    rw [exec_decode_of_legacy hmode hh] at ht
    obtain ⟨-, rfl⟩ | ⟨hn, hover, -⟩ | ⟨-, -, -, ht⟩ := decodeLegacy_next ht
    · rw [State.raise_status]
      decide
    · obtain ⟨hbuf, -⟩ := hwf
      rw [HDR_eq] at hn hover
      omega
    · obtain rfl := takeFrame_next ht
      change statusCode (statusWord Code.ok.byte false) ≠ 0x83
      decide

/-- Settles O45: the capacity test follows the underflow test in LEGACY and comes first in STRICT. -/
theorem decodeCapacityFaults : Obligations.DecodeCapacityFaults := by
  refine ⟨?_, ?_, fun _ _ => statusCode_ne_capacity_of_legacy⟩
  · intro s h hmode hh hsl hover
    have hlen := headerLength_of_readHeader hh
    rw [HDR_eq] at hlen
    calc exec .decode s = decodeLegacy h s := exec_decode_of_legacy hmode hh
      _ = raiseIn .decode .capacity s := (if_neg (by rw [HDR_eq]; omega)).trans (if_pos hover)
      _ = .next (raised s 0x83 0x0001) := raiseIn_decode .capacity
  · intro s h hmode hh hover
    calc exec .decode s = decodeStrict h s := exec_decode_of_strict hmode hh
      _ = raiseIn .decode .capacity s := if_pos hover
      _ = .next (raised s 0x83 0x0001) := raiseIn_decode .capacity

/-! ### DECODE ending OK -/

/-- DECODE ends OK by taking a frame that lies in IBUF behind its header, at the declared boundary in STRICT
(R65, R67, R69). -/
theorem takeFrame_of_decode_ok {s t : State} (ht : exec .decode s = .next t) (hok : t.status = 0x0000) :
    ∃ (h : Header) (b : Nat), 15 ≤ b ∧ b + h.signatureLength.toNat ≤ s.ibuf.length ∧
      takeFrame h b s = .next t ∧ (s.config.framingMode = .strict → b = 15 + h.payloadLength.toNat) := by
  cases hh : readHeader? s.ibuf with
  | none =>
    obtain rfl := decodeIncomplete_next ((execDecode_of_decodeWaits (.inl hh)).symm.trans ht)
    exact absurd (statusWord_incomplete.symm.trans hok) (by decide)
  | some h =>
    cases hmode : s.config.framingMode with
    | legacy =>
      rw [exec_decode_of_legacy hmode hh] at ht
      obtain ⟨-, rfl⟩ | ⟨-, -, rfl⟩ | ⟨hn, -, -, ht⟩ := decodeLegacy_next ht
      · exact absurd hok (statusWord_cause_ne_zero _)
      · exact absurd hok (statusWord_cause_ne_zero _)
      · rw [HDR_eq] at hn
        exact ⟨h, _, by omega, by omega, ht, nofun⟩
    | strict =>
      rw [exec_decode_of_strict hmode hh] at ht
      obtain ⟨-, rfl⟩ | ⟨-, rfl⟩ | ⟨hn, -, -, ht⟩ := decodeStrict_next ht
      · exact absurd hok (statusWord_cause_ne_zero _)
      · exact absurd (statusWord_incomplete.symm.trans hok) (by decide)
      · exact ⟨h, _, Nat.le_add_right _ _, hn, ht, fun _ => rfl⟩

/-- Settles O46: the frame taken is as long as the header and the two byte fields it was routed to. -/
theorem decodeConsumesExactlyItsFrame : Obligations.DecodeConsumesExactlyItsFrame := by
  intro s t ht hok
  obtain ⟨h, b, hb, hin, htake, -⟩ := takeFrame_of_decode_ok ht hok
  obtain rfl := takeFrame_next htake
  dsimp only [Header.toMsg]
  rw [takeFrame_length hin]
  exact ⟨by rw [HDR_eq]; omega, rfl⟩

/-- Settles O47: the signature is cut to its declared length, and in STRICT the data ends at the declared boundary. -/
theorem declaredLengthsHoldAfterDecode : Obligations.DeclaredLengthsHoldAfterDecode := by
  intro s t ht hok
  obtain ⟨h, b, hb, hin, htake, hstrict⟩ := takeFrame_of_decode_ok ht hok
  have hdata : (slice s.ibuf HDR b).length = b - 15 := slice_length (by omega)
  have hsig : (slice s.ibuf b (b + h.signatureLength.toNat)).length = h.signatureLength.toNat := by
    rw [slice_length hin, Nat.add_sub_cancel_left]
  obtain rfl := takeFrame_next htake
  exact ⟨rfl, hsig, fun hmode => hdata.trans (by rw [hstrict hmode, Nat.add_sub_cancel_left]; rfl)⟩

/-! ### Partial frames and bytes beyond the frame -/

/-- A LEGACY buffer that starts with a Message's header, cut behind it so that the second part is as long as the header
declares. -/
theorem legacyDecode_of_headerBytes {s : State} {m : Msg} {data sig : List Byte}
    (hmode : s.config.framingMode = .legacy) (hbuf : s.ibuf = headerBytes m ++ (data ++ sig))
    (hsig : sig.length = m.signatureLength.toNat) (hdata : data.length ≤ s.config.msgDataCap)
    (hcap : sig.length ≤ s.config.msgSigCap) :
    exec .decode s = .next { s with msg := message (headerOf m) data sig, ibuf := [], status := 0x0000 } :=
  legacyDecodeSplitsByBufferedLength s _ (headerBytes m) data sig hmode (by rw [hbuf, List.append_assoc])
    (headerBytes_length m) (readHeader_headerBytes m) hsig hdata hcap

theorem take_frameOf {m : Msg} {n : Nat} (hn : 15 ≤ n) :
    (frameOf m).take n = headerBytes m ++ (m.data ++ m.signature).take (n - 15) := by
  rw [frameOf, List.append_assoc, List.take_append, headerBytes_length, HDR_eq,
    List.take_of_length_le (by rw [headerBytes_length, HDR_eq]; exact hn)]

/-- Settles O48: the bytes behind the header are cut sl bytes before their end. -/
theorem legacyMisparsesAPartialFrame : Obligations.LegacyMisparsesAPartialFrame := by
  intro s m n hmode hsl hdata hcap hn hshort hbuf
  have hbody : ((m.data ++ m.signature).take (n - 15)).length = n - 15 := by
    rw [List.length_take, List.length_append]; omega
  rw [take_frameOf hn] at hbuf
  generalize (m.data ++ m.signature).take (n - 15) = body at hbuf hbody ⊢
  constructor
  · intro hunder
    have hread : readHeader? s.ibuf = some (headerOf m) := hbuf ▸ readHeader_append (readHeader_headerBytes m) body
    have hlen : s.ibuf.length - 15 = n - 15 := by
      rw [hbuf, List.length_append, headerBytes_length, HDR_eq, Nat.add_sub_cancel_left, hbody]
    exact (legacyUnderflowFaults s _ hmode hread (by rw [hlen, headerOf, hsl]; exact hunder)).1
  · intro hfits
    obtain ⟨k, hk⟩ := Nat.exists_eq_add_of_le' hfits
    have hleft : (body.take k).length = k := by rw [List.length_take]; omega
    have hright : (body.drop k).length = m.signature.length := by rw [List.length_drop]; omega
    refine ⟨body.take k, body.drop k, ?_, List.take_append_drop k body, hright, by omega⟩
    exact legacyDecode_of_headerBytes hmode (by rw [hbuf, List.take_append_drop]) (hright.trans hsl.symm) (by omega)
      (by omega)

/-- Settles O49: in LEGACY the bytes behind the header are cut sl bytes before their end, inside the extra bytes or
inside the frame's signature; in STRICT behind the declared lengths. -/
theorem legacyOverReadsAndStrictDoesNot : Obligations.LegacyOverReadsAndStrictDoesNot := by
  intro s m extra _ hsl hdata hcap hbuf
  have hbehind : s.ibuf = headerBytes m ++ (m.data ++ (m.signature ++ extra)) := by
    simp only [hbuf, frameOf, List.append_assoc]
  refine ⟨fun hmode hmany => ?_, fun hmode hfew => ?_, fun hmode hpl hwf => ?_⟩
  · refine legacyDecode_of_headerBytes hmode ?_ ?_ ?_ ?_
    · rw [List.append_assoc _ (extra.take _), List.take_append_drop, List.append_assoc, hbehind]
    · rw [List.length_drop]; omega
    · simp only [List.length_append, List.length_take]; omega
    · rw [List.length_drop]; omega
  · refine legacyDecode_of_headerBytes hmode ?_ ?_ ?_ ?_
    · rw [List.append_assoc, ← List.append_assoc (m.signature.take _), List.take_append_drop, hbehind]
    · rw [List.length_append, List.length_drop]; omega
    · rw [List.length_append, List.length_take]; omega
    · rw [List.length_append, List.length_drop]; omega
  · have hpl' : (headerOf m).payloadLength.toNat = m.data.length := hpl
    have hsl' : (headerOf m).signatureLength.toNat = m.signature.length := hsl
    have hfits : 15 + m.data.length + m.signature.length ≤ s.config.ibufCap := by
      obtain ⟨hibuf, -⟩ := hwf
      rw [hbuf, List.length_append, frameOf_length, frameSize, HDR_eq] at hibuf
      omega
    obtain ⟨-, htakes⟩ := strictDecodeSplitsByDeclaredLengths s (headerOf m) hmode (by omega) (by omega) (by omega)
    exact htakes _ _ _ extra hbuf (headerBytes_length m) (readHeader_headerBytes m) hpl'.symm hsl'.symm

end Sys2Proof.Proofs

/-! PROOFS. ENCODE (spec 41_encode R77 to R84): its four ends, in the order of their tests, and the frame it appends,
field by field and by the MemWrites of R81. -/

namespace Sys2Proof.Proofs

open Sys2Proof.Machine Sys2Proof.Laws Sys2Proof.Spec

/-! ### The bytes of a frame -/

theorem leBytes_one (b : Byte) : leBytes 1 b = [b] := congrArg (fun b => [b]) BitVec.extractLsb'_eq_self

/-- The header is its six fields in the words of R84. -/
theorem headerBytes_eq_fields (m : Msg) : headerBytes m = le32 m.signatureLength ++ [m.version] ++
    le16 m.messageType ++ le16 m.serviceId ++ le32 m.payloadLength ++ le16 m.encrypted := by
  rw [headerBytes, leBytes_one]
  rfl

/-- Only four bytes of the frame, at offset 9, depend on payload_length (R49, R82). -/
theorem frameOf_payloadLength (m : Msg) : ∃ front back : List Byte, front.length = 9 ∧
    ∀ pl, frameOf { m with payloadLength := pl } = front ++ le32 pl ++ back := by
  refine ⟨le32 m.signatureLength ++ [m.version] ++ le16 m.messageType ++ le16 m.serviceId,
    le16 m.encrypted ++ m.data ++ m.signature, rfl, fun pl => ?_⟩
  simp only [frameOf, headerBytes_eq_fields, List.append_assoc]

/-! ### The ends of ENCODE -/

section
variable {s : State}

theorem raiseIn_encode (c : Cause) : raiseIn .encode c s = .next (raised s c.byte 0x0002) :=
  congrArg _ (raise_eq_raised s c _)

theorem exec_encode_of_invalid (hvalid : s.msg.valid = false) : exec .encode s = .next (raised s 0x81 0x0002) :=
  (if_pos hvalid).trans (raiseIn_encode .msgInvalid)

variable (hvalid : s.msg.valid = true)
include hvalid

theorem exec_encode_of_false_length (hlen : s.msg.signatureLength.toNat ≠ s.msg.signature.length) :
    exec .encode s = .next (withoutMessage s { s.msg with valid := false } 0x02) :=
  (if_neg (by simp [hvalid])).trans (if_pos hlen)

variable (hlen : s.msg.signatureLength.toNat = s.msg.signature.length)
include hlen

theorem exec_encode_of_full
    (hfull : s.config.obufCap < s.obuf.length + (15 + s.msg.data.length + s.msg.signature.length)) :
    exec .encode s = .next (raised s 0x83 0x0002) := by
  calc exec .encode s = raiseIn .encode .capacity s :=
      (if_neg (by simp [hvalid])).trans ((if_neg (not_not.2 hlen)).trans (if_pos hfull))
    _ = .next (raised s 0x83 0x0002) := raiseIn_encode .capacity

theorem exec_encode_of_room
    (hroom : s.obuf.length + (15 + s.msg.data.length + s.msg.signature.length) ≤ s.config.obufCap) :
    exec .encode s = .next { withoutMessage s { s.msg with valid := false } 0x00 with
      obuf := s.obuf ++ frameOf s.msg } :=
  (if_neg (by simp [hvalid])).trans ((if_neg (not_not.2 hlen)).trans (if_neg (not_lt.2 hroom)))

end

/-- Settles O52: the ends of ENCODE, with the frame's header written out. -/
theorem encodeAppendsTheFrame : Obligations.EncodeAppendsTheFrame := by
  refine ⟨decode_encode (i := .encode) rfl, fun s => ⟨exec_encode_of_invalid, fun hvalid hlen => ?_,
    exec_encode_of_full, fun hvalid hlen hroom => ?_⟩⟩
  · exact ⟨{ s.msg with valid := false }, rfl, exec_encode_of_false_length hvalid hlen⟩
  · refine ⟨{ s.msg with valid := false }, rfl, (exec_encode_of_room hvalid hlen hroom).trans ?_⟩
    simp only [frameOf, headerBytes_eq_fields, List.append_assoc]

/-! ### Reserving and storing -/

/-- MemWrite at the front of the reserved bytes lays its bytes behind those already stored (R38, R81). -/
theorem memWrite_reserved {pre : List Byte} {addr n k : Nat} (v : BitVec (8 * n)) (haddr : addr = pre.length) :
    memWrite? (pre ++ List.replicate (n + k) 0) addr n v = some (pre ++ leBytes n v ++ List.replicate k 0) := by
  rw [haddr, List.replicate_add, ← List.append_assoc]
  exact memWrite_of_append pre _ _ n v List.length_replicate

/-- What is stored next starts from the bytes the MemWrite leaves. -/
theorem memWrite_reserved_bind {pre : List Byte} {addr n k : Nat} {v : BitVec (8 * n)}
    {next : List Byte → Option (List Byte)} (haddr : addr = pre.length) :
    (memWrite? (pre ++ List.replicate (n + k) 0) addr n v >>= next) =
      next (pre ++ leBytes n v ++ List.replicate k 0) :=
  congrArg (· >>= next) (memWrite_reserved v haddr)

/-- A field stored byte by byte at the front of the reserved bytes (R81). -/
theorem memWriteBytes_reserved {k : Nat} (bs : List Byte) {pre : List Byte} {addr : Nat} (haddr : addr = pre.length) :
    memWriteBytes? (pre ++ List.replicate (bs.length + k) 0) addr bs = some (pre ++ bs ++ List.replicate k 0) := by
  induction bs generalizing pre addr with
  | nil => rw [memWriteBytes?, List.append_nil, List.length_nil, Nat.zero_add]
  | cons b bs ih =>
    have hsize : (b :: bs).length + k = 1 + (bs.length + k) := by rw [List.length_cons]; omega
    calc memWriteBytes? (pre ++ List.replicate ((b :: bs).length + k) 0) addr (b :: bs)
        = memWriteBytes? (pre ++ leBytes 1 b ++ List.replicate (bs.length + k) 0) (addr + 1) bs := by
          rw [hsize]; exact memWrite_reserved_bind haddr
      _ = some (pre ++ leBytes 1 b ++ bs ++ List.replicate k 0) := ih (by simp [haddr])
      _ = some (pre ++ (b :: bs) ++ List.replicate k 0) := by rw [leBytes_one, List.append_cons pre b bs]

/-- The reserved bytes, counted in the order in which the fields are stored (R79). -/
theorem frameSize_eq_sum (m : Msg) :
    frameSize m = 4 + (1 + (2 + (2 + (4 + (2 + (m.data.length + (m.signature.length + 0))))))) := by
  rw [frameSize, HDR_eq]; omega

/-- Each field finds the reserved bytes right behind the fields stored before it. -/
theorem appendByWrites_eq (obuf : List Byte) (m : Msg) : appendByWrites? obuf m = some (obuf ++ frameOf m) := by
  rw [appendByWrites?, frameSize_eq_sum]
  refine (memWrite_reserved_bind rfl).trans ?_
  iterate 5 refine (memWrite_reserved_bind (by simp)).trans ?_
  rw [memWriteBytes_reserved m.data (by simp [HDR_eq]), Option.bind_eq_bind, Option.bind_some,
    memWriteBytes_reserved m.signature (by simp [HDR_eq]; omega)]
  simp [frameOf, headerBytes]

/-- Settles O53: an ENCODE that ends OK has appended the frame. -/
theorem encodeEqualsReserveAndMemWrite : Obligations.EncodeEqualsReserveAndMemWrite := by
  refine ⟨appendByWrites_eq, fun s t h hok => ?_⟩
  cases exec_effect h with
  | appendFrame => exact appendByWrites_eq s.obuf s.msg
  | raise c => exact absurd hok (statusWord_cause_ne_zero c)
  | validationError => exact absurd (statusWord_validationError.symm.trans hok) (by decide)
  | answer hr => cases hr

/-! ### The stored payload_length -/

/-- Bytes of the same length in the middle of a list leave the other places as they are. -/
theorem getElem?_of_middle {front mid mid' back : List Byte} {a : Nat} (hmid : mid'.length = mid.length)
    (ha : a < front.length ∨ front.length + mid.length ≤ a) :
    (front ++ mid' ++ back)[a]? = (front ++ mid ++ back)[a]? := by
  simp only [List.getElem?_append, List.length_append, hmid]
  split
  · rw [if_pos (by omega), if_pos (by omega)]
  · rfl

/-- Settles O54: no test of ENCODE reads payload_length, and the frames of the two starts have the same bytes before and
behind it. -/
theorem encodeNeverChecksPayloadLength : Obligations.EncodeNeverChecksPayloadLength := by
  intro s t pl ht
  by_cases hvalid : s.msg.valid = false
  · obtain rfl := Host.Outcome.next.inj ((exec_encode_of_invalid hvalid).symm.trans ht)
    exact ⟨_, exec_encode_of_invalid hvalid, rfl, rfl, rfl, fun _ _ => rfl, by simp [raised]⟩
  rw [Bool.not_eq_false] at hvalid
  by_cases hlen : s.msg.signatureLength.toNat ≠ s.msg.signature.length
  · obtain rfl := Host.Outcome.next.inj ((exec_encode_of_false_length hvalid hlen).symm.trans ht)
    exact ⟨_, exec_encode_of_false_length hvalid hlen, rfl, rfl, rfl, fun _ _ => rfl, by simp [withoutMessage]⟩
  rw [not_not] at hlen
  by_cases hfull : s.config.obufCap < s.obuf.length + (15 + s.msg.data.length + s.msg.signature.length)
  · obtain rfl := Host.Outcome.next.inj ((exec_encode_of_full hvalid hlen hfull).symm.trans ht)
    exact ⟨_, exec_encode_of_full hvalid hlen hfull, rfl, rfl, rfl, fun _ _ => rfl, by simp [raised]⟩
  rw [not_lt] at hfull
  obtain rfl := Host.Outcome.next.inj ((exec_encode_of_room hvalid hlen hfull).symm.trans ht)
  obtain ⟨front, back, hfront, hframe⟩ := frameOf_payloadLength s.msg
  have hold : frameOf s.msg = front ++ le32 s.msg.payloadLength ++ back := hframe s.msg.payloadLength
  have hpos : (s.obuf ++ front).length = s.obuf.length + 9 := by rw [List.length_append, hfront]
  refine ⟨_, exec_encode_of_room hvalid hlen hfull, rfl, rfl, ?_, fun a ha => ?_, fun _ => ?_⟩
  · simp only [List.length_append, frameOf_length]
    rfl
  · simp only [hold, hframe, ← List.append_assoc]
    exact getElem?_of_middle rfl (by rw [hpos]; exact ha)
  · simp only [hframe, ← List.append_assoc]
    rw [List.append_assoc, List.drop_left' hpos]
    rfl

end Sys2Proof.Proofs

/-! PROOFS. The round trip of R85: ENCODE, the host's transfer of every byte from OBUF to IBUF, and DECODE on the frame
that then stands in IBUF (spec 41_encode R85, 42_buffer_port R86, R88). -/

namespace Sys2Proof.Proofs

open Sys2Proof.Machine Sys2Proof.Laws Sys2Proof.Spec

/-! ### The transfer -/

theorem moveBytes_succ (n : Nat) :
    moveBytes (n + 1) = .writeCw 0x0012 :: .copyRdata :: .writeCw 0x0010 :: moveBytes n := by
  simp only [moveBytes, List.replicate_succ, List.flatten_cons, List.cons_append, List.nil_append]

/-- The state after OUT_POP took byte b (R88). -/
def afterPop (s : State) (b : Byte) (tail : List Byte) (rest : List HostAction) : State :=
  { s with
    obuf := tail, rdata := b.setWidth 32, status := statusWord Code.ok.byte true,
    hostQueue := rest, hostPc := s.hostPc + 1 }

theorem step_outPop {s : State} {b : Byte} {tail : List Byte} {rest : List HostAction} (hf : s.faulted = false)
    (hq : s.hostQueue = .writeCw 0x0012 :: rest) (hobuf : s.obuf = b :: tail) :
    step s = .next (afterPop s b tail rest) := by
  rw [cwWriteRunsTheDecodedCommand s _ rest .outPop hq hf (decode_encode (i := .outPop) rfl)]
  change execOutPop _ = _
  simp only [execOutPop, hobuf]
  rfl

/-- The state after the copy of RDATA to OPND (log entry 16). -/
def afterCopy (s : State) (rest : List HostAction) : State :=
  { s with opnd := s.rdata, hostQueue := rest, hostData := s.rdata }

theorem step_copyRdata {s : State} {rest : List HostAction} (hq : s.hostQueue = .copyRdata :: rest)
    (hrdv : statusRdv s.status = true) : step s = .next (afterCopy s rest) :=
  (step_of_cons hq).trans (hostCopyRdata_of_rdv hrdv)

/-- The state after one byte is moved: OUT_POP, the copy of RDATA to OPND, IN_PUSH. -/
def afterMove (s : State) (b : Byte) (tail : List Byte) (rest : List HostAction) : State :=
  { s with
    ibuf := s.ibuf ++ [b], obuf := tail, opnd := b.setWidth 32, rdata := b.setWidth 32,
    status := statusWord Code.ok.byte false, hostQueue := rest, hostPc := s.hostPc + 1 + 1,
    hostData := b.setWidth 32 }

/-- IN_PUSH of a byte that was read from RDATA (R86). -/
theorem step_inPush_of_byte {s : State} {b : Byte} {rest : List HostAction} (hf : s.faulted = false)
    (hq : s.hostQueue = .writeCw 0x0010 :: rest) (hopnd : s.opnd = b.setWidth 32)
    (hroom : s.ibuf.length < s.config.ibufCap) :
    step s = .next { s with
      ibuf := s.ibuf ++ [b], status := statusWord Code.ok.byte false, hostQueue := rest, hostPc := s.hostPc + 1 } := by
  have hwide : s.opnd.toNat = b.toNat := by rw [hopnd]; exact BitVec.toNat_setWidth_of_le (by omega)
  have hbyte : BitVec.ofNat 8 s.opnd.toNat = b := by rw [hwide, BitVec.ofNat_toNat, BitVec.setWidth_eq]
  rw [step_inPush hf hq (by rw [hwide]; exact b.isLt) hroom, hbyte]

/-- Moving a byte takes three steps: the byte popped is in RDATA, then in OPND, then at the back of IBUF. -/
theorem run_move {s : State} {b : Byte} {tail : List Byte} {rest : List HostAction} (hf : s.faulted = false)
    (hq : s.hostQueue = .writeCw 0x0012 :: .copyRdata :: .writeCw 0x0010 :: rest) (hobuf : s.obuf = b :: tail)
    (hroom : s.ibuf.length < s.config.ibufCap) (k : Nat) :
    Host.Core.run core (k + 3) s = Host.Core.run core k (afterMove s b tail rest) := by
  have hcopy : step (afterPop s b tail (.copyRdata :: .writeCw 0x0010 :: rest)) =
      .next (afterCopy (afterPop s b tail (.copyRdata :: .writeCw 0x0010 :: rest)) (.writeCw 0x0010 :: rest)) :=
    step_copyRdata rfl (statusRdv_statusWord _ _)
  have hpush : step (afterCopy (afterPop s b tail (.copyRdata :: .writeCw 0x0010 :: rest)) (.writeCw 0x0010 :: rest)) =
      .next (afterMove s b tail rest) := step_inPush_of_byte (b := b) hf rfl rfl hroom
  rw [run_succ (step_outPop hf hq hobuf), run_succ hcopy, run_succ hpush]

/-- The transfer of R85, by induction on the bytes moved: they go from the front of OBUF to the back of IBUF. -/
theorem run_moveBytes (bytes : List Byte) {s : State} {tail : List Byte} {rest : List HostAction}
    (hf : s.faulted = false) (hq : s.hostQueue = moveBytes bytes.length ++ rest) (hobuf : s.obuf = bytes ++ tail)
    (hroom : s.ibuf.length + bytes.length ≤ s.config.ibufCap) :
    ∃ t, (∀ k, Host.Core.run core (k + 3 * bytes.length) s = Host.Core.run core k t) ∧ t.ibuf = s.ibuf ++ bytes ∧
      t.obuf = tail ∧ t.hostQueue = rest ∧ t.fault = s.fault ∧ t.config = s.config := by
  induction bytes generalizing s with
  | nil => exact ⟨s, fun _ => rfl, (List.append_nil _).symm, hobuf, hq, rfl, rfl⟩
  | cons b bytes ih =>
    rw [List.length_cons] at hroom
    rw [List.length_cons, moveBytes_succ] at hq
    obtain ⟨t, hrun, hibuf, htail, hqueue, hfault, hconfig⟩ :=
      ih (s := afterMove s b (bytes ++ tail) (moveBytes bytes.length ++ rest)) hf rfl rfl
        (by simp [afterMove]; omega)
    refine ⟨t, fun k => ?_, ?_, htail, hqueue, hfault, hconfig⟩
    · exact (run_move hf hq hobuf (by omega) (k + 3 * bytes.length)).trans (hrun k)
    · rw [hibuf, List.append_cons]; rfl

/-! ### The loopback up to DECODE -/

/-- The run of a last DECODE is the command itself. -/
theorem run_last_decode {s : State} (hf : s.faulted = false) (hq : s.hostQueue = [.writeCw 0x0001]) :
    Host.Core.run core 1 s = exec .decode { s with hostQueue := [], hostPc := s.hostPc + 1 } := by
  have hstep : step s = exec .decode { s with hostQueue := [], hostPc := s.hostPc + 1 } :=
    cwWriteRunsTheDecodedCommand s _ [] .decode hq hf (decode_encode (i := .decode) rfl)
  obtain ⟨t, ht⟩ := exec_answers .decode { s with hostQueue := [], hostPc := s.hostPc + 1 }
  exact (run_succ (hstep.trans ht) 0).trans ht.symm

/-- The state after an ENCODE that ends OK (R81, R83). -/
def afterEncode (s : State) (rest : List HostAction) : State :=
  { s with
    obuf := s.obuf ++ frameOf s.msg, msg := { s.msg with valid := false }, status := 0x0000, hostQueue := rest,
    hostPc := s.hostPc + 1 }

theorem step_encode {s : State} {rest : List HostAction} (hf : s.faulted = false)
    (hq : s.hostQueue = .writeCw 0x0002 :: rest) (hvalid : s.msg.valid = true)
    (hlen : s.msg.signatureLength.toNat = s.msg.signature.length)
    (hroom : s.obuf.length + (15 + s.msg.data.length + s.msg.signature.length) ≤ s.config.obufCap) :
    step s = .next (afterEncode s rest) := by
  rw [cwWriteRunsTheDecodedCommand s _ rest .encode hq hf (decode_encode (i := .encode) rfl)]
  exact exec_encode_of_room hvalid hlen hroom

/-- The loopback ends with DECODE on the frame alone in IBUF, with OBUF empty again and no fault taken (R85). -/
theorem run_loopback {s : State} (hs : loopbackStart s) :
    ∃ t, Host.Core.run core (loopbackSteps s.msg) s = exec .decode t ∧ t.ibuf = frameOf s.msg ∧ t.obuf = [] ∧
      t.hostQueue = [] ∧ t.fault = s.fault ∧ t.config = s.config := by
  obtain ⟨hf, hvalid, hlen, -, -, hibuf, hobuf, hin, hout, hq⟩ := hs
  have hsize : (frameOf s.msg).length = 15 + s.msg.data.length + s.msg.signature.length := by
    rw [frameOf_length, frameSize, HDR_eq]
  rw [loopback, ← hsize] at hq
  have hencode := step_encode hf hq hvalid hlen (by rw [hobuf, List.length_nil]; omega)
  obtain ⟨u, hrun, huibuf, huobuf, huqueue, hufault, huconfig⟩ :=
    run_moveBytes (frameOf s.msg) (s := afterEncode s _) (tail := []) hf rfl (by simp [afterEncode, hobuf])
      (by simp only [afterEncode, hibuf, List.length_nil]; omega)
  have huf : u.faulted = false := (congrArg faultF hufault).trans hf
  refine ⟨{ u with hostQueue := [], hostPc := u.hostPc + 1 }, ?_, ?_, huobuf, rfl, hufault, huconfig⟩
  · rw [loopbackSteps, ← hsize]
    exact (run_succ hencode _).trans ((hrun 1).trans (run_last_decode huf huqueue))
  · calc u.ibuf = s.ibuf ++ frameOf s.msg := huibuf
      _ = frameOf s.msg := by rw [hibuf, List.nil_append]

/-! ### DECODE of the frame -/

theorem message_headerOf {m : Msg} (hvalid : m.valid = true) : message (headerOf m) m.data m.signature = m := by
  cases m
  cases hvalid
  rfl

/-- Settles O55: LEGACY cuts the frame behind the data, as the signature length is true. -/
theorem legacyRoundTripReproducesTheMessage : Obligations.LegacyRoundTripReproducesTheMessage := by
  intro s hs hmode
  obtain ⟨t, hrun, hibuf, hobuf, hqueue, hfault, hconfig⟩ := run_loopback hs
  obtain ⟨-, hvalid, hlen, hdata, hsig, -⟩ := hs
  have hdecode := legacyDecode_of_headerBytes (s := t) (hconfig ▸ hmode)
    (hibuf.trans (List.append_assoc _ _ _)) hlen.symm (hconfig ▸ hdata) (hconfig ▸ hsig)
  exact ⟨_, hrun.trans hdecode, message_headerOf hvalid, rfl, hobuf, rfl, hfault, hqueue⟩

/-- In STRICT a frame whose payload_length is not above the data's length is cut at the declared payload, and what is
not declared stays in IBUF (R67, R70). -/
theorem strictDecode_of_frameOf {t : State} {m : Msg} (hmode : t.config.framingMode = .strict)
    (hibuf : t.ibuf = frameOf m) (hlen : m.signatureLength.toNat = m.signature.length)
    (hpl : m.payloadLength.toNat ≤ m.data.length) (hdata : m.data.length ≤ t.config.msgDataCap)
    (hsig : m.signature.length ≤ t.config.msgSigCap)
    (hin : 15 + m.data.length + m.signature.length ≤ t.config.ibufCap) :
    exec .decode t = .next { t with
      msg := message (headerOf m) (m.data.take m.payloadLength.toNat)
        ((m.data.drop m.payloadLength.toNat ++ m.signature).take m.signature.length)
      ibuf := (m.data.drop m.payloadLength.toNat ++ m.signature).drop m.signature.length, status := 0x0000 } := by
  have hpl' : (headerOf m).payloadLength.toNat = m.payloadLength.toNat := rfl
  have hlen' : (headerOf m).signatureLength.toNat = m.signature.length := hlen
  obtain ⟨-, htakes⟩ := strictDecodeSplitsByDeclaredLengths t (headerOf m) hmode (by omega) (by omega) (by omega)
  refine htakes (headerBytes m) _ _ _ ?_ (headerBytes_length m) (readHeader_headerBytes m) ?_ ?_
  · rw [List.append_assoc, List.take_append_drop, List.append_assoc, ← List.append_assoc (m.data.take _),
      List.take_append_drop, ← List.append_assoc, hibuf, frameOf]
  · rw [List.length_take]; omega
  · rw [List.length_take, List.length_append, List.length_drop]; omega

/-- In STRICT a frame whose payload_length is above the data's length is one DECODE waits on or has no room for
(R67, R68). -/
theorem strictDecode_status_of_lt {t u : State} {m : Msg} (hmode : t.config.framingMode = .strict)
    (hibuf : t.ibuf = frameOf m) (hlen : m.signatureLength.toNat = m.signature.length)
    (hpl : m.data.length < m.payloadLength.toNat) (hu : exec .decode t = .next u) :
    u.status = 0x0001 ∨ u.status = 0x0083 := by
  have hread : readHeader? t.ibuf = some (headerOf m) := by
    rw [hibuf, frameOf, List.append_assoc]; exact readHeader_append (readHeader_headerBytes m) _
  rw [exec_decode_of_strict hmode hread] at hu
  obtain ⟨-, rfl⟩ | ⟨-, rfl⟩ | ⟨hn, -, -, -⟩ := decodeStrict_next hu
  · exact .inr (by rw [State.raise_status]; decide)
  · exact .inl statusWord_incomplete
  · have hpl' : (headerOf m).payloadLength.toNat = m.payloadLength.toNat := rfl
    have hlen' : (headerOf m).signatureLength.toNat = m.signature.length := hlen
    rw [hibuf, frameOf_length, frameSize] at hn
    omega

/-- Settles O56: DECODE ends by how payload_length compares with the data's length. -/
theorem strictRoundTripNeedsTruePayloadLength : Obligations.StrictRoundTripNeedsTruePayloadLength := by
  intro s hs hmode
  obtain ⟨t, hrun, hibuf, -, -, -, hconfig⟩ := run_loopback hs
  obtain ⟨-, hvalid, hlen, hdata, hsig, -, -, hin, -⟩ := hs
  rw [← hconfig] at hmode hdata hsig hin
  rcases Nat.lt_or_ge s.msg.data.length s.msg.payloadLength.toNat with hlarge | hfits
  · obtain ⟨u, hu⟩ := exec_answers .decode t
    refine ⟨u, hrun.trans hu, by omega, fun _ => strictDecode_status_of_lt hmode hibuf hlen hlarge hu, by omega⟩
  · refine ⟨_, hrun.trans (strictDecode_of_frameOf hmode hibuf hlen hfits hdata hsig hin), fun htrue => ?_, by omega,
      fun _ => ⟨rfl, rfl, ?_⟩⟩
    · refine ⟨?_, ?_, rfl⟩
      · simp [htrue, message_headerOf hvalid]
      · simp [htrue]
    · simp only [List.length_drop, List.length_append]
      omega

end Sys2Proof.Proofs

/-! PROOFS. The buffer port (spec 42_buffer_port R86 to R89): the ends of IN_PUSH and OUT_POP, each under the condition of
its test, and the lengths, which fit RDATA. -/

namespace Sys2Proof.Proofs

open Sys2Proof.Machine Sys2Proof.Laws Sys2Proof.Spec

/-! ### Ends in the words of the statements -/

section
variable (s : State)

theorem finish_ok_eq : s.finish .ok = { s with status := 0x0000 } := by
  rw [State.finish, State.setStatus, statusWord_ok]

theorem finish_empty_eq : s.finish .empty = { s with status := 0x0003 } := by
  have hstatus : statusWord Code.empty.byte false = 0x0003 := by decide
  rw [State.finish, State.setStatus, hstatus]

theorem answer_eq (v : Word32) : s.answer v = { s with rdata := v, status := 0x0100 } := by
  have hstatus : statusWord Code.ok.byte true = 0x0100 := by decide
  rw [State.answer, hstatus]

theorem raiseIn_inPush (c : Cause) : raiseIn .inPush c s = .next (raised s c.byte 0x0010) :=
  congrArg _ (raise_eq_raised s c _)

end

/-! ### IN_PUSH -/

section
variable {s : State}

theorem exec_inPush_of_range (hrange : 256 ≤ s.opnd.toNat) : exec .inPush s = .next (raised s 0x84 0x0010) := by
  change execInPush s = _
  rw [execInPush, byteOperand_eq_none hrange]
  exact raiseIn_inPush s .operandRange

/-- With a byte in OPND the test for a full IBUF decides (R86). -/
theorem exec_inPush_of_byte (hbyte : s.opnd.toNat < 256) :
    exec .inPush s = if s.ibuf.length = s.config.ibufCap then raiseIn .inPush .capacity s
      else .next ((s.setIbuf (s.ibuf ++ [BitVec.ofNat 8 s.opnd.toNat])).finish .ok) := by
  change execInPush s = _
  rw [execInPush, byteOperand_eq_some hbyte]

theorem exec_inPush_of_full (hbyte : s.opnd.toNat < 256) (hfull : s.ibuf.length = s.config.ibufCap) :
    exec .inPush s = .next (raised s 0x83 0x0010) := by
  rw [exec_inPush_of_byte hbyte, if_pos hfull]
  exact raiseIn_inPush s .capacity

theorem exec_inPush_of_not_full (hbyte : s.opnd.toNat < 256) (hroom : s.ibuf.length ≠ s.config.ibufCap) :
    exec .inPush s =
      .next { s with ibuf := s.ibuf ++ [BitVec.ofNat 8 s.opnd.toNat], status := 0x0000 } := by
  rw [exec_inPush_of_byte hbyte, if_neg hroom, finish_ok_eq, State.setIbuf]

/-! ### OUT_POP -/

theorem exec_outPop_of_nil (hobuf : s.obuf = []) : exec .outPop s = .next { s with status := 0x0003 } := by
  change execOutPop s = _
  simp only [execOutPop, hobuf, finish_empty_eq]

theorem exec_outPop_of_cons {b : Byte} {rest : List Byte} (hobuf : s.obuf = b :: rest) :
    exec .outPop s = .next { s with rdata := BitVec.ofNat 32 b.toNat, obuf := rest, status := 0x0100 } := by
  change execOutPop s = _
  simp only [execOutPop, hobuf, answer_eq, BitVec.ofNat_toNat, State.setObuf]

end

/-! ### The lengths -/

theorem exec_inLen (s : State) :
    exec .inLen s = .next { s with rdata := BitVec.ofNat 32 s.ibuf.length, status := 0x0100 } := by
  change execInLen s = _
  rw [execInLen, answer_eq]

theorem exec_outLen (s : State) :
    exec .outLen s = .next { s with rdata := BitVec.ofNat 32 s.obuf.length, status := 0x0100 } := by
  change execOutLen s = _
  rw [execOutLen, answer_eq]

/-- A length within a legal capacity fits RDATA (R6, R87, R89). -/
theorem toNat_ofNat_of_le_maxCap {n : Nat} (h : n ≤ maxCap) : (BitVec.ofNat 32 n).toNat = n := by
  rw [maxCap] at h
  rw [BitVec.toNat_ofNat, Nat.mod_eq_of_lt (by omega)]

/-- Settles O31: the three ends of IN_PUSH. -/
theorem inPushAppendsOneByte : Obligations.InPushAppendsOneByte :=
  ⟨decode_encode (i := .inPush) rfl, fun _ => ⟨exec_inPush_of_range, exec_inPush_of_full, exec_inPush_of_not_full⟩⟩

/-- Settles O32: both commands answer a length, which its legal capacity bounds. -/
theorem lengthCommandsReadBufferLengths : Obligations.LengthCommandsReadBufferLengths := by
  refine ⟨decode_encode (i := .inLen) rfl, decode_encode (i := .outLen) rfl, fun s =>
    ⟨exec_inLen s, exec_outLen s, fun hlegal hwf => ?_⟩⟩
  obtain ⟨⟨-, hicap⟩, ⟨-, hocap⟩, -⟩ := hlegal
  obtain ⟨hibuf, hobuf, -⟩ := hwf
  exact ⟨toNat_ofNat_of_le_maxCap (hibuf.trans hicap), toNat_ofNat_of_le_maxCap (hobuf.trans hocap)⟩

/-- Settles O33: OBUF is empty or has an oldest byte. -/
theorem outPopReturnsTheOldestByte : Obligations.OutPopReturnsTheOldestByte :=
  ⟨decode_encode (i := .outPop) rfl, fun _ => ⟨exec_outPop_of_nil, fun _ _ => exec_outPop_of_cons⟩⟩

end Sys2Proof.Proofs

/-! PROOFS. The message port (spec 43_message_port R90 to R96): the ends of each command, each under the condition of
its test. The two byte pushes share one set of lemmas, and so do the two byte reads. -/

namespace Sys2Proof.Proofs

open Sys2Proof.Machine Sys2Proof.Laws Sys2Proof.Spec

theorem raiseIn_eq_raised (i : Instr) (c : Cause) (s : State) :
    raiseIn i c s = .next (raised s c.byte (encode i)) :=
  congrArg _ (raise_eq_raised s c _)

/-! ### MSG_WR -/

theorem encode_msgWr (f : Selector) :
    encode (.msgWr f) = BitVec.ofNat 16 (0x21 + 256 * (selCode f).toNat) := by
  cases f <;> decide

/-- The test of R91: OPND does not fit the field. A 32-bit field has no bits above it. -/
theorem overWidth_iff {f : Selector} {v : Word32} : overWidth f v ↔ 2 ^ fieldWidth f ≤ v.toNat := by
  have hshift : v >>> fieldWidth f ≠ 0 ↔ 2 ^ fieldWidth f ≤ v.toNat := by
    rw [ne_eq, ← BitVec.toNat_inj, BitVec.toNat_ushiftRight, Nat.shiftRight_eq_div_pow]
    simp
  have hwidth : 2 ^ fieldWidth f ≤ v.toNat → fieldWidth f < 32 := fun h =>
    (Nat.pow_lt_pow_iff_right (by decide)).1 (h.trans_lt v.isLt)
  exact ⟨fun h => hshift.1 h.2, fun h => ⟨hwidth h, hshift.2 h⟩⟩

/-- A field that OPND fits holds exactly OPND. -/
theorem selected_writeField_same {f : Selector} {v : Word32} (m : Msg) (hf : f.writable = true)
    (hv : v.toNat < 2 ^ fieldWidth f) : selected (m.writeField f v) f = v.toNat := by
  have hlow (n : Nat) (h : v.toNat < 2 ^ n) : (v.extractLsb' 0 n).toNat = v.toNat := by
    rw [BitVec.extractLsb'_toNat, Nat.shiftRight_zero, Nat.mod_eq_of_lt h]
  cases f with
  | signatureLength => rfl
  | payloadLength => rfl
  | version => exact hlow 8 hv
  | messageType => exact hlow 16 hv
  | serviceId => exact hlow 16 hv
  | encrypted => exact hlow 16 hv
  | dataLen => cases hf
  | sigLen => cases hf

/-- A write changes one field of the record and a selector reads one, so off the diagonal both sides are one field. -/
theorem selected_writeField_of_ne {f g : Selector} (m : Msg) (v : Word32) (hne : g ≠ f) :
    selected (m.writeField f v) g = selected m g := by
  cases f <;> cases g <;> trivial

@[simp] theorem writeField_valid (m : Msg) (f : Selector) (v : Word32) : (m.writeField f v).valid = m.valid := by
  cases f <;> rfl

section
variable {s : State} {f : Selector}

/-- MSG_WR of a field that may be written tests validity, then the width (R91). -/
theorem exec_msgWr_of_writable (hf : f.writable = true) :
    exec (.msgWr f) s = if s.msg.valid = false then raiseIn (.msgWr f) .msgInvalid s
      else if overWidth f s.opnd then raiseIn (.msgWr f) .operandRange s
      else .next ((s.setMsg (s.msg.writeField f s.opnd)).finish .ok) :=
  if_neg (by simp [hf])

theorem exec_msgWr_of_invalid (hf : f.writable = true) (hvalid : s.msg.valid = false) :
    exec (.msgWr f) s = .next (raised s 0x81 (encode (.msgWr f))) := by
  rw [exec_msgWr_of_writable hf, if_pos hvalid]
  exact raiseIn_eq_raised _ .msgInvalid s

theorem exec_msgWr_of_range (hf : f.writable = true) (hvalid : s.msg.valid = true)
    (hrange : 2 ^ fieldWidth f ≤ s.opnd.toNat) :
    exec (.msgWr f) s = .next (raised s 0x84 (encode (.msgWr f))) := by
  rw [exec_msgWr_of_writable hf, if_neg (by simp [hvalid]), if_pos (overWidth_iff.2 hrange)]
  exact raiseIn_eq_raised _ .operandRange s

theorem exec_msgWr_of_fits (hf : f.writable = true) (hvalid : s.msg.valid = true)
    (hfits : s.opnd.toNat < 2 ^ fieldWidth f) :
    exec (.msgWr f) s = .next { s with msg := s.msg.writeField f s.opnd, status := 0x0000 } := by
  rw [exec_msgWr_of_writable hf, if_neg (by simp [hvalid]), if_neg (by simpa [overWidth_iff] using hfits),
    finish_ok_eq, State.setMsg]

end

/-- Settles O35: the three ends of MSG_WR, and what the written field reads as. -/
theorem msgWrWritesTheSelectedField : Obligations.MsgWrWritesTheSelectedField := by
  refine ⟨fun w hopc hsel => ?_, fun s f => ?_⟩
  · exact (illegalWord_iff w).1 (.inr (.inr (.inr (.inl ⟨hopc, hsel⟩))))
  · rw [← encode_msgWr]
    refine ⟨fun hf => decode_encode hf, exec_msgWr_of_invalid, exec_msgWr_of_range, fun hf hvalid hfits => ?_⟩
    exact ⟨_, exec_msgWr_of_fits hf hvalid hfits, selected_writeField_same s.msg hf hfits,
      fun _ => selected_writeField_of_ne s.msg s.opnd, writeField_data .., writeField_signature ..,
      (writeField_valid ..).trans hvalid⟩

/-! ### MSG_RD -/

theorem encode_msgRd (f : Selector) :
    encode (.msgRd f) = BitVec.ofNat 16 (0x22 + 256 * (selCode f).toNat) := by
  cases f <;> decide

theorem readField_eq_selected (m : Msg) (f : Selector) : m.readField f = BitVec.ofNat 32 (selected m f) := by
  cases f <;> simp [Msg.readField, selected]

section
variable {s : State} {f : Selector}

theorem exec_msgRd_of_invalid (hvalid : s.msg.valid = false) :
    exec (.msgRd f) s = .next (raised s 0x81 (encode (.msgRd f))) :=
  (if_pos hvalid).trans (raiseIn_eq_raised _ .msgInvalid s)

theorem exec_msgRd_of_valid (hvalid : s.msg.valid = true) :
    exec (.msgRd f) s = .next { s with rdata := BitVec.ofNat 32 (selected s.msg f), status := 0x0100 } := by
  change execMsgRd f s = _
  rw [execMsgRd, if_neg (by simp [hvalid]), answer_eq, readField_eq_selected]

end

/-- Settles O37: MSG_RD tests nothing but validity. -/
theorem msgRdReadsTheSelectedField : Obligations.MsgRdReadsTheSelectedField := by
  refine ⟨fun w hopc hsel => ?_, fun s f => ?_⟩
  · exact (illegalWord_iff w).1 (.inr (.inr (.inr (.inr ⟨hopc, hsel⟩))))
  · rw [← encode_msgRd]
    exact ⟨decode_encode rfl, exec_msgRd_of_invalid, exec_msgRd_of_valid⟩

/-! ### MSG_RD_DATA and MSG_RD_SIG -/

section
variable {i : Instr} {field : List Byte} {s : State}

theorem readMsgByte_of_invalid (hvalid : s.msg.valid = false) :
    readMsgByte i field s = .next (raised s 0x81 (encode i)) :=
  (if_pos hvalid).trans (raiseIn_eq_raised i .msgInvalid s)

/-- In a valid Message the bound is the actual length of the field. -/
theorem readMsgByte_of_outside (hvalid : s.msg.valid = true) (hout : field.length ≤ s.opnd.toNat) :
    readMsgByte i field s = .next (raised s 0x85 (encode i)) := by
  have hnone : field[indexOperand s.opnd]? = none := List.getElem?_eq_none hout
  rw [readMsgByte, if_neg (by simp [hvalid]), hnone]
  exact raiseIn_eq_raised i .indexRange s

theorem readMsgByte_of_getElem {b : Byte} (hvalid : s.msg.valid = true) (hb : field[s.opnd.toNat]? = some b) :
    readMsgByte i field s = .next { s with rdata := BitVec.ofNat 32 b.toNat, status := 0x0100 } := by
  have hsome : field[indexOperand s.opnd]? = some b := hb
  rw [readMsgByte, if_neg (by simp [hvalid]), hsome, BitVec.ofNat_toNat]
  exact congrArg _ (answer_eq s _)

end

/-- Settles O40: both commands are the shared byte read, of data and of signature. -/
theorem byteReadsReturnTheIndexedByte : Obligations.ByteReadsReturnTheIndexedByte :=
  ⟨decode_encode (i := .msgRdData) rfl, decode_encode (i := .msgRdSig) rfl, fun _ =>
    ⟨fun hvalid => ⟨readMsgByte_of_invalid hvalid, readMsgByte_of_invalid hvalid⟩,
      readMsgByte_of_outside, readMsgByte_of_outside, fun _ => readMsgByte_of_getElem, fun _ => readMsgByte_of_getElem⟩⟩

/-! ### MSG_NEW -/

/-- Settles O34: MSG_NEW tests nothing. -/
theorem msgNewStartsAnEmptyMessage : Obligations.MsgNewStartsAnEmptyMessage :=
  ⟨decode_encode (i := .msgNew) rfl, fun s => congrArg Host.Outcome.next (finish_ok_eq (s.setMsg Msg.fresh))⟩

/-! ### MSG_PUSH_DATA and MSG_PUSH_SIG -/

section
variable {i : Instr} {len cap : Nat} {put : Byte → Msg} {s : State}

theorem pushMsgByte_of_invalid (hvalid : s.msg.valid = false) :
    pushMsgByte i len cap put s = .next (raised s 0x81 (encode i)) :=
  (if_pos hvalid).trans (raiseIn_eq_raised i .msgInvalid s)

theorem pushMsgByte_of_range (hvalid : s.msg.valid = true) (hrange : 256 ≤ s.opnd.toNat) :
    pushMsgByte i len cap put s = .next (raised s 0x84 (encode i)) := by
  rw [pushMsgByte, if_neg (by simp [hvalid]), byteOperand_eq_none hrange]
  exact raiseIn_eq_raised i .operandRange s

/-- With a byte in OPND the test for a full field decides, last of the three (R93, R94, R105). -/
theorem pushMsgByte_of_byte (hvalid : s.msg.valid = true) (hbyte : s.opnd.toNat < 256) :
    pushMsgByte i len cap put s = if len = cap then raiseIn i .capacity s
      else .next ((s.setMsg (put (BitVec.ofNat 8 s.opnd.toNat))).finish .ok) := by
  rw [pushMsgByte, if_neg (by simp [hvalid]), byteOperand_eq_some hbyte]

theorem pushMsgByte_of_full (hvalid : s.msg.valid = true) (hbyte : s.opnd.toNat < 256) (hfull : len = cap) :
    pushMsgByte i len cap put s = .next (raised s 0x83 (encode i)) := by
  rw [pushMsgByte_of_byte hvalid hbyte, if_pos hfull]
  exact raiseIn_eq_raised i .capacity s

theorem pushMsgByte_of_room (hvalid : s.msg.valid = true) (hbyte : s.opnd.toNat < 256) (hroom : len ≠ cap) :
    pushMsgByte i len cap put s =
      .next { s with msg := put (BitVec.ofNat 8 s.opnd.toNat), status := 0x0000 } := by
  rw [pushMsgByte_of_byte hvalid hbyte, if_neg hroom, finish_ok_eq, State.setMsg]

end

/-- Settles O38: MSG_PUSH_DATA is the shared byte push, on data. -/
theorem msgPushDataAppendsOneByte : Obligations.MsgPushDataAppendsOneByte :=
  ⟨decode_encode (i := .msgPushData) rfl, fun _ =>
    ⟨pushMsgByte_of_invalid, pushMsgByte_of_range, pushMsgByte_of_full, pushMsgByte_of_room⟩⟩

/-- Settles O39: MSG_PUSH_SIG is the shared byte push, on signature. -/
theorem msgPushSigAppendsOneByte : Obligations.MsgPushSigAppendsOneByte :=
  ⟨decode_encode (i := .msgPushSig) rfl, fun _ =>
    ⟨pushMsgByte_of_invalid, pushMsgByte_of_range, pushMsgByte_of_full, pushMsgByte_of_room⟩⟩

end Sys2Proof.Proofs

/-! PROOFS. Outcomes and faults (spec 60_exceptions R98 to R104, R112, R114): how a command and a CW write end, what a
faulted machine keeps, which runs are safe, and several instances as their product. -/

namespace Sys2Proof.Proofs

open Sys2Proof.Machine Sys2Proof.Laws Sys2Proof.Spec

/-! ### Codes and raises -/

theorem allCauses_bytes : allCauses.map Cause.byte = [0x80, 0x81, 0x82, 0x83, 0x84, 0x85] := by decide

/-- Settles O20: a well-formed command raises a cause of its own or ends with a code of its own. -/
theorem outcomesByCommand : Obligations.OutcomesByCommand := by
  refine ⟨by decide, allCauses_bytes, fun i s t hi h => ?_⟩
  obtain ⟨c, hc, rfl⟩ | ⟨⟨c, hc, hstatus⟩, hfault, -, -⟩ := exec_ends hi h
  · exact .inr ⟨c, mem_allCauses c, hc, raise_eq_raised s c _⟩
  · exact .inl ⟨c, mem_allCodes c, hc, by rw [hstatus, statusCode_statusWord], hfault⟩

/-- A CW write that takes the machine from FAULT.F = 0 to 1 is one raise (R100, R101). -/
theorem issueCommand_raises {w : Word16} {s t : State} (h : issueCommand w s = .next t) (hf : s.faulted = false)
    (ht : t.faulted = true) : ∃ c, t = s.advanceHostPc.raise c w := by
  obtain ⟨hs, -⟩ | ⟨-, -, rfl⟩ | ⟨-, i, hi, hexec⟩ := issueCommand_next h
  · exact absurd hf (by simp [hs])
  · exact ⟨_, rfl⟩
  · obtain ⟨c, -, rfl⟩ | hends := exec_ends (wellFormed_of_decode hi) hexec
    · exact ⟨c, by rw [encode_of_decode hi]⟩
    · have hkeeps : t.faulted = s.faulted := congrArg faultF hends.fault
      exact absurd ht (by simp [hkeeps, hf])

/-- Settles O10: the step is the CW write, taken off the queue, and it is one raise. -/
theorem raiseWritesOnlyFaultAndStatus : Obligations.RaiseWritesOnlyFaultAndStatus := by
  intro s t w rest hq hf h ht
  rw [step_of_cons hq] at h
  obtain ⟨c, rfl⟩ := issueCommand_raises h hf ht
  exact ⟨c.byte, allCauses_bytes ▸ List.mem_map_of_mem (mem_allCauses c), raise_eq_raised _ c w⟩

/-! ### Quiescence -/

/-- What quiescence keeps (R102): the state, with OPND and the host's own fields blanked. -/
def quiescentPart (s : State) : State := { s with opnd := 0, hostPc := 0, hostQueue := [], hostData := 0 }

/-- Quiescence keeps every register but OPND, and the configuration. -/
theorem fields_of_quiescentPart {s t : State} (h : quiescentPart t = quiescentPart s) :
    t.config = s.config ∧ t.ibuf = s.ibuf ∧ t.obuf = s.obuf ∧ t.msg = s.msg ∧ t.rdata = s.rdata ∧
      t.status = s.status ∧ t.fault = s.fault := by
  simpa [quiescentPart] using h

theorem faulted_eq_of_quiescentPart {s t : State} (h : quiescentPart t = quiescentPart s) : t.faulted = s.faulted := by
  obtain ⟨-, -, -, -, -, -, hfault⟩ := fields_of_quiescentPart h
  exact congrArg faultF hfault

theorem issueCommand_of_faulted {s : State} (hf : s.faulted = true) (w : Word16) :
    issueCommand w s = .next s.advanceHostPc :=
  if_pos hf

/-- On a faulted machine no host action but reset reaches more than OPND and the host's own fields (R102). -/
theorem quiescentPart_runAction {a : HostAction} {s t : State} (hf : s.faulted = true) (ha : a ≠ .reset)
    (h : runAction a s = .next t) : quiescentPart t = quiescentPart s := by
  cases a with
  | writeCw w => cases (issueCommand_of_faulted hf w).symm.trans h; rfl
  | writeOpnd v => cases h; rfl
  | copyRdata => obtain ⟨v, -, rfl⟩ := hostCopyRdata_next h; rfl
  | read r => obtain ⟨v, rfl⟩ := hostRead_next h; rfl
  | writeReadOnly r v => cases h
  | reset => exact absurd rfl ha

/-- The same holds of a step that performs no reset, an idle one included (R102, R114). -/
theorem quiescentPart_step {s t : State} (hf : s.faulted = true) (hr : ∀ rest, s.hostQueue ≠ .reset :: rest)
    (h : step s = .next t) : quiescentPart t = quiescentPart s := by
  obtain ⟨-, rfl⟩ | ⟨a, rest, hq, hact⟩ := step_next h
  · rfl
  · exact quiescentPart_runAction (s := { s with hostQueue := rest }) hf (fun ha => hr rest (ha ▸ hq)) hact

/-- A state that meets the invariant with FAULT.F = 1 was left by a raise, so RDATA has no value (R100). -/
theorem rdv_of_faulted {s : State} (h : Inv s) (hf : s.faulted = true) : statusRdv s.status = false := by
  obtain ⟨-, -, -, -, -, hfaulted⟩ := h
  obtain ⟨c, -, -, hstatus, -⟩ := hfaulted hf
  rw [hstatus, statusRdv_statusWord]

/-- Settles O8: each access is one host action on the faulted state, and a step other than a reset keeps FAULT. -/
theorem quiescentInstanceExecutesNothing : Obligations.QuiescentInstanceExecutesNothing := by
  intro s h hf
  refine ⟨fun w rest hq => ?_, fun v rest => step_of_cons, fun rest => step_of_cons, fun rest hq => ?_,
    fun t ht hrun => ?_, fun hfinal => ?_⟩
  · exact (step_of_cons hq).trans (issueCommand_of_faulted (s := { s with hostQueue := rest }) hf w)
  · exact (step_of_cons hq).trans (hostRead_rdata_of_not_rdv (rdv_of_faulted h hf))
  · by_contra hr
    have hkeeps : t.faulted = s.faulted := faulted_eq_of_quiescentPart (quiescentPart_step hf (not_exists.1 hr) ht)
    exact absurd hrun (by simp [hkeeps, hf])
  · exact absurd hfinal.2 (by simp [hf])

/-- A step uses up the host's next action (log entry 5). -/
theorem step_hostQueue {s t : State} (h : step s = .next t) : t.hostQueue = s.hostQueue.tail := by
  obtain ⟨hq, rfl⟩ | ⟨a, rest, hq, -⟩ := step_next h
  · simp [hq]
  · rw [hq]
    exact (hostCommandIndexCountsCwWrites s t a rest hq h).1

/-- By induction on the steps of a run: quiescence lasts, and the host's actions left hold no reset (R102, R104). -/
theorem quiescentPart_run {n : Nat} {s t : State} (hf : s.faulted = true) (hr : .reset ∉ s.hostQueue)
    (h : Host.Core.run Sys2Proof.core n s = .next t) : quiescentPart t = quiescentPart s := by
  induction n generalizing s with
  | zero => cases h; rfl
  | succ n ih =>
    obtain ⟨u, hstep, hrun⟩ := run_succ_next h
    have hkeeps : quiescentPart u = quiescentPart s :=
      quiescentPart_step hf (fun rest hq => hr (by simp [hq])) hstep
    have hu : u.faulted = true := (faulted_eq_of_quiescentPart hkeeps).trans hf
    have hru : .reset ∉ u.hostQueue := fun hmem => hr (List.mem_of_mem_tail (step_hostQueue hstep ▸ hmem))
    exact (ih hu hru hrun).trans hkeeps

/-- Settles O9: the six registers are parts of what quiescence keeps. -/
theorem faultStaysAsFirstRecordedUntilReset : Obligations.FaultStaysAsFirstRecordedUntilReset := by
  intro n s t hf hr h
  obtain ⟨-, hibuf, hobuf, hmsg, hrdata, hstatus, hfault⟩ := fields_of_quiescentPart (quiescentPart_run hf hr h)
  exact ⟨hfault, hstatus, hibuf, hobuf, hmsg, hrdata⟩

/-! ### Safe runs -/

/-- A safe run is one that ends in a final state and meets no fault on its way (R102). -/
theorem safeRun_iff (k : Nat) (s : State) : SafeRun k s ↔
    (∃ t, Host.Core.run Sys2Proof.core k s = .next t ∧ Final t) ∧
      ∀ j ≤ k, ∀ u, Host.Core.run Sys2Proof.core j s = .next u → u.faulted = false := by
  induction k generalizing s with
  | zero =>
    constructor
    · intro h
      refine ⟨⟨s, rfl, h⟩, fun j hj u hu => ?_⟩
      obtain rfl := Nat.le_zero.1 hj
      cases hu
      exact h.2
    · rintro ⟨⟨t, ht, hfinal⟩, -⟩
      cases ht
      exact hfinal
  | succ k ih =>
    rw [safeRun_succ]
    constructor
    · rintro ⟨hf, t, hstep, hsafe⟩
      obtain ⟨⟨u, hrun, hfinal⟩, hall⟩ := (ih t).1 hsafe
      refine ⟨⟨u, (run_succ hstep k).trans hrun, hfinal⟩, fun j hj v hv => ?_⟩
      cases j with
      | zero => cases hv; exact hf
      | succ j => exact hall j (by omega) v ((run_succ hstep j).symm.trans hv)
    · rintro ⟨⟨u, hrun, hfinal⟩, hall⟩
      obtain ⟨t, hstep, hrest⟩ := run_succ_next hrun
      refine ⟨hall 0 (by omega) s rfl, t, hstep, (ih t).2 ⟨⟨u, hrest, hfinal⟩, fun j hj v hv => ?_⟩⟩
      exact hall (j + 1) (by omega) v ((run_succ hstep j).trans hv)

/-- A run whose first action is a CW write of an illegal word raises or was faulted before (R59, R102). -/
theorem not_safeRun_of_illegalWord {s : State} {w : Word16} {rest : List HostAction}
    (hq : s.hostQueue = .writeCw w :: rest) (hw : illegalWord w) (k : Nat) : ¬ SafeRun k s := by
  intro hsafe
  have hf : s.faulted = false := not_faulted_of_safeRun hsafe
  cases k with
  | zero =>
    have hempty : s.hostQueue = [] := hsafe.1
    simp [hq] at hempty
  | succ k =>
    obtain ⟨-, t, hstep, hrest⟩ := hsafe
    obtain ⟨e, he⟩ := (illegalWord_iff w).1 hw
    cases ((step_of_cons hq).trans (issueCommand_of_error hf he)).symm.trans hstep
    exact absurd (not_faulted_of_safeRun hrest) (by simp)

/-- Settles O57: by induction on the run's length, and an illegal word raises in the first step. -/
theorem safeRunNeverReachesAFault : Obligations.SafeRunNeverReachesAFault :=
  ⟨safeRun_iff, fun k _ _ _ hq hw => not_safeRun_of_illegalWord hq hw k⟩

/-! ### Several instances -/

/-- A number out of range steps nothing; any other steps its own state alone (R112). -/
theorem stepInstance_next {k : Nat} {ss us : List State} (h : stepInstance k ss = .next us) :
    (ss[k]? = none ∧ us = ss) ∨ ∃ s t, ss[k]? = some s ∧ step s = .next t ∧ us = ss.set k t := by
  unfold stepInstance at h
  split at h
  · cases h; exact .inl ⟨‹_›, rfl⟩
  · next s hs =>
    cases ht : step s with
    | next t => rw [ht] at h; cases h; exact .inr ⟨s, t, hs, ht, rfl⟩
    | fault r => rw [ht] at h; cases h
    | refused r => rw [ht] at h; cases h

theorem stepInstance_length {k : Nat} {ss us : List State} (h : stepInstance k ss = .next us) :
    us.length = ss.length := by
  obtain ⟨-, rfl⟩ | ⟨s, t, -, -, rfl⟩ := stepInstance_next h
  · rfl
  · exact List.length_set

theorem stepInstance_same {k : Nat} {ss us : List State} {s : State} (h : stepInstance k ss = .next us)
    (hs : ss[k]? = some s) : ∃ t, us[k]? = some t ∧ step s = .next t := by
  obtain ⟨hnone, -⟩ | ⟨s', t, hs', ht, rfl⟩ := stepInstance_next h
  · simp [hs] at hnone
  · obtain rfl : s = s' := Option.some.inj (hs.symm.trans hs')
    exact ⟨t, List.getElem?_set_self (List.getElem?_eq_some_iff.1 hs).1, ht⟩

theorem stepInstance_of_ne {j k : Nat} {ss us : List State} (h : stepInstance j ss = .next us) (hjk : j ≠ k) :
    us[k]? = ss[k]? := by
  obtain ⟨-, rfl⟩ | ⟨s, t, -, -, rfl⟩ := stepInstance_next h
  · rfl
  · exact List.getElem?_set_ne hjk

theorem runSchedule_cons_next {k : Nat} {ks : List Nat} {ss ts : List State}
    (h : runSchedule (k :: ks) ss = .next ts) : ∃ us, stepInstance k ss = .next us ∧ runSchedule ks us = .next ts := by
  rw [runSchedule] at h
  split at h
  · exact ⟨_, ‹_›, h⟩
  · cases h
  · cases h

/-- Settles O16, by induction on the schedule: its first entry steps the state it names and leaves the others. -/
theorem instancesAreIndependent : Obligations.InstancesAreIndependent := by
  intro schedule
  induction schedule with
  | nil =>
    intro ss ts h
    cases h
    exact ⟨rfl, fun k s hs => ⟨s, hs, rfl⟩⟩
  | cons j ks ih =>
    intro ss ts h
    obtain ⟨us, hstep, hrun⟩ := runSchedule_cons_next h
    obtain ⟨hlength, hruns⟩ := ih us ts hrun
    refine ⟨hlength.trans (stepInstance_length hstep), fun k s hs => ?_⟩
    by_cases hjk : j = k
    · subst hjk
      obtain ⟨u, hu, hsu⟩ := stepInstance_same hstep hs
      rw [List.count_cons_self, run_succ hsu]
      exact hruns j u hu
    · rw [List.count_cons_of_ne hjk]
      exact hruns k s ((stepInstance_of_ne hstep hjk).trans hs)

/-! ### Idling -/

/-- Settles O5: with no action to take off the queue the step answers the state itself. -/
theorem idleInstanceKeepsAllItsState : Obligations.IdleInstanceKeepsAllItsState :=
  fun _ => step_of_empty

end Sys2Proof.Proofs

/-! PROOFS. Reset (spec 70_reset_and_hazards R115, R116) and DECODE on a frame that is still arriving (R119). -/

namespace Sys2Proof.Proofs

open Sys2Proof.Machine Sys2Proof.Spec Sys2Proof.Laws

/-! ### A frame that is still arriving -/

/-- Settles O50: the part holds no whole header, or the whole header and so the true declared lengths. -/
theorem strictWaitsOnEveryProperPrefix : Obligations.StrictWaitsOnEveryProperPrefix := by
  intro s m n hmode hsl hpl hdata hsig hfits hn hbuf
  have hlen : s.ibuf.length ≤ n := by rw [hbuf]; exact List.length_take_le n _
  rcases Nat.lt_or_ge n 15 with hshort | hheader
  · exact shortBufferIsIncomplete s (by omega)
  · have hread : readHeader? s.ibuf = some (headerOf m) := by
      rw [hbuf, take_frameOf hheader]
      exact readHeader_append (readHeader_headerBytes m) _
    rw [← hsl] at hsig hfits hn
    rw [← hpl] at hdata hfits hn
    obtain ⟨hwaits, -⟩ := strictDecodeSplitsByDeclaredLengths s (headerOf m) hmode hdata hsig hfits
    exact hwaits hread (hlen.trans_lt hn)

/-! ### Reset -/

/-- Without a Message every command that reads MSG raises MSG_INVALID, its first test (R23, R99). -/
theorem exec_of_readsMsg_of_invalid {i : Instr} {s : State} (hi : i.wellFormed = true) (hreads : readsMsg i = true)
    (hvalid : s.msg.valid = false) : exec i s = .next (raised s 0x81 (encode i)) := by
  cases i with
  | encode => exact exec_encode_of_invalid hvalid
  | msgWr f => exact exec_msgWr_of_invalid hi hvalid
  | msgRd f => exact exec_msgRd_of_invalid hvalid
  | msgPushData | msgPushSig => exact pushMsgByte_of_invalid hvalid
  | msgRdData | msgRdSig => exact readMsgByte_of_invalid hvalid
  | decode | inPush | inLen | outPop | outLen | msgNew => cases hreads

/-- Settles O3: the step runs the command, and after reset IBUF is empty and there is no Message. -/
theorem firstCommandAfterReset : Obligations.FirstCommandAfterReset := by
  intro c i hi
  have hstep := cwWriteRunsTheDecodedCommand { State.resetWith c with hostQueue := [.writeCw (encode i)] } (encode i) []
    i rfl (resetWith_not_faulted c) (decode_encode hi)
  obtain ⟨t, ht⟩ := exec_answers i { State.resetWith c with hostPc := 1 }
  refine ⟨t, hstep.trans ht, ?_, fun hreads => ?_⟩
  · rintro rfl
    obtain ⟨m, -, hwaits⟩ := shortBufferIsIncomplete { State.resetWith c with hostPc := 1 } (by decide : 0 < 15)
    cases hwaits.symm.trans ht
    exact ⟨rfl, resetWith_not_faulted c⟩
  · cases (exec_of_readsMsg_of_invalid hi hreads rfl).symm.trans ht
    exact ⟨rfl, rfl⟩

/-- Settles O1: the step is the reset, taken off the queue, and it leaves RDV = 0. -/
theorem resetActionRestoresEveryResetValue : Obligations.ResetActionRestoresEveryResetValue :=
  fun _ _ hq => ⟨_, step_of_cons hq, rfl, rfl, rfl, rfl, rfl, rfl, rdata?_eq_none.2 statusRdv_zero, rfl, rfl⟩

end Sys2Proof.Proofs
